-- ==== Sys2Proof/Word.lean ====
section
/-! DEFINITION. The word types of the block: stream bytes, stream addresses, target addresses, the raw buffer, 7-bit text. -/

namespace Sys2Proof

/-- A stream byte, `BYTE_W` = 8 bits (R6). -/
abbrev Byte := BitVec 8

/-- The stream address a `begin` carries, `ADDR_W` = 32 bits (R6, R51). -/
abbrev Address := BitVec 32

/-- A resolved target address, `TARGET_W` = 16 bits (R6, R51). -/
abbrev TargetAddress := BitVec 16

/-- A character of `CHARSET`, 7-bit ASCII: its code (R6, R12, R35). -/
abbrev AsciiChar := BitVec 7

/-- A string of the block: a finite sequence of 7-bit ASCII characters (R12). -/
abbrev Text := List AsciiChar

/-- The raw buffer: `MAXBYTES` = 8 entries of one byte (R6, R23). -/
abbrev RawBytes := Vector Byte 8

end Sys2Proof
end

