-- ==== Sys2Proof/Config.lean ====
section
/-! DEFINITION. What configures the block: its fixed parameters, the profiles, the mode tags, the open parameters. -/

namespace Sys2Proof

/-- `MAXBYTES`, the capacity of the raw buffer (R6). -/
abbrev maxBytes : Nat := 8

/-- `MAXSTRING`, the greatest length of `outputString` (R6). -/
abbrev maxString : Nat := 28

/-- `ArchitectureProfile`: the six selectable profiles (R2, R31). -/
inductive Profile where
  | p6502 | p65C02 | p6800 | p6809 | p6809E | pZ80
  deriving DecidableEq, Repr

/-- The two index registers that a Z80 `DD` or `FD` byte selects (R241). -/
inductive IndexReg where
  | ix | iy
  deriving DecidableEq, Repr

/-- The kinds of the 6809 indexed family (R26). -/
inductive IndexKind where
  | idx5 | zero | const8 | const16 | acc | inc1 | inc2 | dec1 | dec2 | pcr8 | pcr16 | extInd
  deriving DecidableEq, Repr

/-- `addressingMode`: the tags of every profile, `Unset` and `Invalid` (R26). -/
inductive AddressingMode where
  | unset
  | invalid
  | m65Implied | m65Byte | m65Word | m65Rel
  | m68Inherent | m68Relative | m68Indexed | m68Extended | m68Direct | m68Imm8 | m68Imm16
  | m09Inherent | m09Direct | m09Extended | m09Imm8 | m09Imm16 | m09Rel8 | m09Rel16
  | m09RegPair | m09RegList
  | m09Indexed (kind : IndexKind) (indirect : Bool)
  | mz80Template
  deriving DecidableEq, Repr

/-- A 256-entry table of templates or mnemonics, indexed by an opcode byte (R7, R32). -/
abbrev Table := Vector Text 256

/-- The opcodes of the 6800 with a 16-bit immediate, by default (R162; `IMM16_6800` of entry U2). -/
abbrev standardImm16 : List Byte := [0x8E, 0xCE]

/-- The open parameters of the block: the six tables (R7), and the four readings that spec/92 and spec/93 leave open
beside the one the rules follow (U2, U3, U5, U18 with D39). `t6809X` is the partial map keyed by
`raw[0] * 256 + raw[1]` (R51, R210). -/
structure Parameters where
  t6502  : Table
  t65C02 : Table
  t6800  : Table
  t6809  : Table
  t6809X : List (BitVec 16 × Text)
  tZ80   : Table
  /-- `IMM16_6800` (U2): the 6800 opcodes with a 16-bit immediate; `standardImm16` by the rules (R162). -/
  imm16Opcodes : List Byte
  /-- `PSH_BIT6_SWAPPED` (U3): the other stack pointer in a register list; false by the rules (R219). -/
  pshBit6Swapped : Bool
  /-- `CONST16_FIXED` (U5): the 16-bit constant offset read at `i + 1`; false by the rules (R223). -/
  const16Fixed : Bool
  /-- `ABS_TARGET` (U18, D39): absolute jumps and calls set a target; false by the rules (R28). -/
  absTarget : Bool
  deriving DecidableEq, Repr

/-- What the block was loaded with: the reference tables under the readings of the rules, or any other parameters
(R7, R32). -/
inductive ParameterSet where
  | reference
  | custom (parameters : Parameters)
  deriving DecidableEq, Repr

end Sys2Proof
end

