-- ==== Sys2Proof/Machine/Operands.lean ====
section
/-! DEFINITION. Operand assembly and rendering, and the string operations of the spec's notation (R9 to R12, R80). -/

namespace Sys2Proof.Machine

/-- The code of a character; for the characters of 7-bit ASCII, the only ones the model writes (R12). -/
def asciiChar (c : Char) : AsciiChar := BitVec.ofNat 7 c.toNat

/-- A quoted string of the spec, as text of the block (R12). -/
def ascii (s : String) : Text := s.toList.map asciiChar

/-- `raw[k]`; an index outside the buffer, which no rule of a reachable state reads, gives `0x00` (R13, R23). -/
def rawAt (raw : RawBytes) (k : Nat) : Byte := raw[k]?.getD 0

/-- `T[op]` as text (R13). -/
def tableAt (t : Table) (op : Byte) : Text := t.get op.toFin

/-! ## Assembly and extension (R10, R80) -/

/-- `le16(b0, b1)`: the first stream byte is the low byte (R10). -/
def le16 (b0 b1 : Byte) : BitVec 16 := b1 ++ b0

/-- `be16(b0, b1)`: the first stream byte is the high byte (R10). -/
def be16 (b0 b1 : Byte) : BitVec 16 := b0 ++ b1

/-- `sext_8` (R10). -/
def sext8 (v : Byte) : Int := v.toInt

/-- `sext_16` (R10). -/
def sext16 (v : BitVec 16) : Int := v.toInt

/-- `sext_5` of the low five bits (R10). -/
def sext5 (v : Byte) : Int := (v.setWidth 5).toInt

/-- `v[7:4]` (R9). -/
def highNibble (v : Byte) : Nat := v.toNat / 16

/-- `v[3:0]` (R9). -/
def lowNibble (v : Byte) : Nat := v.toNat % 16

/-! ## Number rendering (R11) -/

/-- One hexadecimal digit `0-9A-F` (R11). -/
def hexDigit (n : Nat) : AsciiChar := BitVec.ofNat 7 (if n < 10 then 0x30 + n else 0x37 + n)

/-- `hex2` (R11). -/
def hex2 (v : Byte) : Text := [hexDigit (highNibble v), hexDigit (lowNibble v)]

/-- `hex4` (R11). -/
def hex4 (v : BitVec 16) : Text :=
  [hexDigit (v.toNat / 4096), hexDigit (v.toNat / 256 % 16), hexDigit (v.toNat / 16 % 16), hexDigit (v.toNat % 16)]

/-- A natural number in decimal, no padding (R11). -/
def decimal (n : Nat) : Text := (Nat.toDigits 10 n).map asciiChar

/-- `sdec`: decimal, `-` when negative, no sign otherwise, no padding (R11). -/
def sdec (v : Int) : Text :=
  if v < 0 then ascii "-" ++ decimal v.natAbs else decimal v.natAbs

/-- `pdec`: as `sdec`, with `+` before a value that is not negative (R11). -/
def pdec (v : Int) : Text := if v < 0 then sdec v else ascii "+" ++ sdec v

/-! ## Strings (R12) -/

/-- `startsWith(s, 0, m)` (R12). -/
def startsWith : Text → Text → Bool
  | _, [] => true
  | [], _ :: _ => false
  | a :: s, b :: m => a == b && startsWith s m

/-- `contains(s, m)` (R12). -/
def contains : Text → Text → Bool
  | [], m => startsWith [] m
  | a :: s, m => startsWith (a :: s) m || contains s m

/-- `replaceFirst(s, m, r)`: the leftmost occurrence of `m` replaced by `r` (R12). -/
def replaceFirst : Text → Text → Text → Text
  | [], m, r => if m.isEmpty then r else []
  | a :: s, m, r => if startsWith (a :: s) m then r ++ (a :: s).drop m.length else a :: replaceFirst s m r

/-- `join(m, o)`: one space between mnemonic and operand, none when the operand is empty (R12). -/
def join (m o : Text) : Text := if o.isEmpty then m else m ++ ascii " " ++ o

/-- Names separated by commas (R219). -/
def commaJoin : List Text → Text
  | [] => []
  | [t] => t
  | t :: u :: ts => t ++ ascii "," ++ commaJoin (u :: ts)

end Sys2Proof.Machine
end

