-- ==== Sys2Proof/Machine/Flags.lean ====
section
/-! DEFINITION. The status values of the block that a formatter decides: the resolved target and its annotation
(R28, R34, R57, R113). -/

namespace Sys2Proof.Machine

/-- What a formatter answers: the body string and, for the modes of R28, a target (R113). -/
structure Rendering where
  body   : Text
  target : Option TargetAddress
  deriving DecidableEq, Repr

/-- A body with no target: `resolvedTargetValid` stays as it is (R28). -/
def plain (body : Text) : Rendering := ⟨body, none⟩

/-- The target `(instructionAddress + delta) mod 65536`, formed in unbounded integers and reduced once (R57). -/
def targetFrom (address : Address) (delta : Int) : TargetAddress :=
  BitVec.ofInt 16 ((address.toNat : Int) + delta)

/-- The target annotation `" <XXXX>"` (R113). -/
def annotation (target : TargetAddress) : Text := ascii " <" ++ hex4 target ++ ascii ">"

/-- The body with its annotation when `resolvedTargetValid` holds, cut to 28 characters (R113). -/
def annotated (body : Text) (valid : Bool) (target : TargetAddress) : Text :=
  (if valid then body ++ annotation target else body).take maxString

/-- A jump or call of the 6800 and 6809, whose extended operand is a target under `ABS_TARGET` (U18, D39). -/
def isAbsoluteJump68 (mn : Text) : Bool := mn == ascii "JMP" || mn == ascii "JSR"

/-- The text of an unresolvable addressing mode (R291, R293). -/
def addrModeText : Text := ascii "<?ADDRMODE?>"

/-- The text of a buffer overflow (R291, R294). -/
def overflowText : Text := ascii "<decode overflow>"

end Sys2Proof.Machine
end

