-- ==== Sys2Proof/Machine/M6800.lean ====
section
/-! DEFINITION. Resolver and formatter of the 6800 profile (R160 to R168). -/

namespace Sys2Proof.Machine

/-- The mode of an opcode: the two explicit exceptions (`0x8E` and `0xCE` by `standardImm16`), then the range of its high
nibble (R161, R162). -/
def mode6800 (imm16 : List Byte) (op : Byte) : AddressingMode :=
  if op = 0x8D then .m68Relative
  else if imm16.contains op then .m68Imm16
  else
    match highNibble op with
    | 0x2 => .m68Relative
    | 0x6 | 0xA | 0xE => .m68Indexed
    | 0x7 | 0xB | 0xF => .m68Extended
    | 0x8 | 0xC => .m68Imm8
    | 0x9 | 0xD => .m68Direct
    | _ => .m68Inherent

/-- `LEN68` (R163). A tag of another family has no length there; it gives 1. -/
def length6800 : AddressingMode → Nat
  | .m68Relative | .m68Indexed | .m68Direct | .m68Imm8 => 2
  | .m68Extended | .m68Imm16 => 3
  | _ => 1

/-- `Resolve6800`: it answers on the first byte, always (R163). -/
def resolve6800 (imm16 : List Byte) (raw : RawBytes) : AddressingMode × Nat :=
  (mode6800 imm16 (rawAt raw 0), length6800 (mode6800 imm16 (rawAt raw 0)))

/-- `Format6800` with the mnemonic `mn` (R164 to R168). A mode tag of another family gives `<?ADDRMODE?>` (DESIGN
CHOICE, log entry 9; safe: no rule produces one). -/
def format6800 (absTarget : Bool) (mn : Text) (mode : AddressingMode) (raw : RawBytes) (address : Address) : Rendering :=
  match mode with
  | .m68Inherent => plain mn
  | .m68Relative =>
    let off := sext8 (rawAt raw 1)
    ⟨join mn (sdec off), some (targetFrom address (2 + off))⟩
  | .m68Indexed => plain (join mn (ascii "$" ++ hex2 (rawAt raw 1) ++ ascii ",X"))
  | .m68Extended =>
    let operand := be16 (rawAt raw 1) (rawAt raw 2)
    ⟨join mn (ascii "$" ++ hex4 operand), if absTarget && isAbsoluteJump68 mn then some operand else none⟩
  | .m68Direct => plain (join mn (ascii "$" ++ hex2 (rawAt raw 1)))
  | .m68Imm8 => plain (join mn (ascii "#$" ++ hex2 (rawAt raw 1)))
  | .m68Imm16 => plain (join mn (ascii "#$" ++ hex4 (be16 (rawAt raw 1) (rawAt raw 2))))
  | _ => plain addrModeText

end Sys2Proof.Machine
end

