-- ==== Sys2Proof/Machine/M6809.lean ====
section
/-! DEFINITION. Resolver and formatter of the 6809 and 6809E profiles (R180 to R192, R210 to R232). -/

namespace Sys2Proof.Machine

/-! ## Resolver -/

/-- The page bytes `0x10` and `0x11` (R181). -/
def isPageByte (b : Byte) : Bool := b == 0x10 || b == 0x11

/-- `p`: 1 after a page byte, else 0; only `raw[0]` is tested (R181). -/
def pageBytes (raw : RawBytes) : Nat := if isPageByte (rawAt raw 0) then 1 else 0

/-- The 16-bit immediate set, the same on every page (R185 a). -/
def isImm16Opcode (op : Byte) : Bool :=
  op == 0x83 || op == 0x8C || op == 0x8E || op == 0xC3 || op == 0xCC || op == 0xCE

/-- Row 1 of the opcode map (R184, R185 d, R186 b). -/
def row1Mode (op : Byte) : AddressingMode :=
  match lowNibble op with
  | 0x6 | 0x7 => .m09Rel16
  | 0xA | 0xC => .m09Imm8
  | 0xE | 0xF => .m09RegPair
  | _ => .m09Inherent

/-- Row 3 of the opcode map; `none` is INDEXED (R183 to R185). -/
def row3Mode (op : Byte) : Option AddressingMode :=
  match lowNibble op with
  | 0x0 | 0x1 | 0x2 | 0x3 => none
  | 0x4 | 0x5 | 0x6 | 0x7 => some .m09RegList
  | 0xC => some .m09Imm8
  | _ => some .m09Inherent

/-- The immediate rows `0x8` and `0xC` (R183, R185). -/
def immediateMode (op : Byte) : AddressingMode :=
  if op = 0x8D then .m09Rel8 else if isImm16Opcode op then .m09Imm16 else .m09Imm8

/-- `BaseMode6809(op, p)`; `none` stands for INDEXED (R183 to R186). -/
def baseMode6809 (op : Byte) (paged : Bool) : Option AddressingMode :=
  match highNibble op with
  | 0x0 | 0x9 | 0xD => some .m09Direct
  | 0x1 => some (row1Mode op)
  | 0x2 => some (if paged then .m09Rel16 else .m09Rel8)
  | 0x3 => row3Mode op
  | 0x6 | 0xA | 0xE => none
  | 0x7 | 0xB | 0xF => some .m09Extended
  | 0x8 | 0xC => some (immediateMode op)
  | _ => some .m09Inherent

/-- The table of the mode pattern `M = pb[3:0]` (R189). -/
def postbyteKind (m : Nat) : Option IndexKind :=
  match m with
  | 0x0 => some .inc1
  | 0x1 => some .inc2
  | 0x2 => some .dec1
  | 0x3 => some .dec2
  | 0x4 => some .zero
  | 0x5 | 0x6 | 0xB => some .acc
  | 0x8 => some .const8
  | 0x9 => some .const16
  | 0xC => some .pcr8
  | 0xD => some .pcr16
  | _ => none

/-- `I = pb[4]`, the indirect bit of the pattern form (R76). -/
def indirectBit (pb : Byte) : Bool := pb.getLsbD 4

/-- `Postbyte6809(pb)`: the 5-bit form, the exact byte `0x9F`, then the pattern table (R187 to R189). -/
def postbyteMode (pb : Byte) : AddressingMode :=
  if pb.getLsbD 7 = false then .m09Indexed .idx5 false
  else if pb = 0x9F then .m09Indexed .extInd true
  else
    match postbyteKind (lowNibble pb) with
    | none => .invalid
    | some kind =>
      if indirectBit pb && (kind == .inc1 || kind == .dec1) then .invalid else .m09Indexed kind (indirectBit pb)

/-- `EXTRA09` of an indexed kind, the postbyte included (R190). -/
def indexExtra : IndexKind → Nat
  | .const8 | .pcr8 => 2
  | .const16 | .pcr16 | .extInd => 3
  | _ => 1

/-- `EXTRA09` (R190). `Invalid` counts the postbyte itself (R191, format `F09_BAD` of R75). -/
def extra6809 : AddressingMode → Nat
  | .m09Direct | .m09Imm8 | .m09Rel8 | .m09RegPair | .m09RegList | .invalid => 1
  | .m09Extended | .m09Imm16 | .m09Rel16 => 2
  | .m09Indexed kind _ => indexExtra kind
  | _ => 0

/-- `Resolve6809`; `none` is a decline (R182, R191). -/
def resolve6809 (raw : RawBytes) (fetched : Nat) : Option (AddressingMode × Nat) :=
  let p := pageBytes raw
  if fetched < p + 1 then none
  else
    match baseMode6809 (rawAt raw p) (p == 1) with
    | some mode => some (mode, 1 + p + extra6809 mode)
    | none =>
      if fetched < p + 2 then none
      else
        match postbyteMode (rawAt raw (p + 1)) with
        | .invalid => some (.invalid, fetched)
        | mode => some (mode, 1 + p + extra6809 mode)

/-! ## Register names (R232) -/

/-- `IR`, the index register of `pb[6:5]` (R76, R232). -/
def indexRegName (pb : Byte) : Text :=
  match pb.toNat / 32 % 4 with
  | 0 => ascii "X"
  | 1 => ascii "Y"
  | 2 => ascii "U"
  | _ => ascii "S"

/-- `AC`, the accumulator of `pb[3:0]`; the resolver yields the mode for these three codes only (R224, R232). -/
def accumulatorName (pb : Byte) : Text :=
  match lowNibble pb with
  | 0x5 => ascii "B"
  | 0x6 => ascii "A"
  | 0xB => ascii "D"
  | _ => ascii "?"

/-- `RP`, the register of a nibble of the exchange and transfer postbyte (R77, R232). -/
def pairRegName (n : Nat) : Text :=
  ascii (["D", "X", "Y", "U", "S", "PC", "?", "?", "A", "B", "CCR", "DPR"].getD n "?")

/-- The register of bit `b` of the push and pull postbyte; bit 6 is `U` on `PSHU`/`PULU` and `S` on `PSHS`/`PULS`
(R78, R219, R232; conflict C5), or the other way round when `swapped` (U3). -/
def listRegName (swapped : Bool) (op : Byte) (b : Nat) : Text :=
  if b = 6 then (if (op == 0x36 || op == 0x37) != swapped then ascii "U" else ascii "S")
  else ascii (["CCR", "A", "B", "DPR", "X", "Y", "?", "PC"].getD b "?")

/-- The register list from bit 0 to bit 7 (R219). -/
def registerList (swapped : Bool) (op pb : Byte) : Text :=
  commaJoin (((List.range 8).filter fun b => pb.getLsbD b).map (listRegName swapped op))

/-! ## Formatter -/

/-- Indirect brackets (R228). -/
def bracketed (indirect : Bool) (inner : Text) : Text := if indirect then ascii "[" ++ inner ++ ascii "]" else inner

/-- The 16-bit constant offset as the source reads it: at `i + i`, not at `i + 1` (R223), unless `fixed` (U5). -/
def const16Operand (fixed : Bool) (raw : RawBytes) (i : Nat) : BitVec 16 :=
  let k := if fixed then i + 1 else i + i
  be16 (rawAt raw k) (rawAt raw (k + 1))

/-- Operand text and target of an indexed kind, `i` the index of the postbyte (R220 to R228). -/
def indexedOperand (fixed : Bool) (kind : IndexKind) (indirect : Bool) (raw : RawBytes) (i : Nat) (address : Address)
    (required : Nat) : Rendering :=
  let pb := rawAt raw i
  let r := indexRegName pb
  match kind with
  | .idx5 => plain (bracketed indirect (sdec (sext5 pb) ++ ascii "," ++ r))
  | .zero => plain (bracketed indirect (ascii "," ++ r))
  | .const8 => plain (bracketed indirect (sdec (sext8 (rawAt raw (i + 1))) ++ ascii "," ++ r))
  | .const16 => plain (bracketed indirect (sdec (sext16 (const16Operand fixed raw i)) ++ ascii "," ++ r))
  | .acc => plain (bracketed indirect (accumulatorName pb ++ ascii "," ++ r))
  | .inc1 => plain (bracketed indirect (ascii "," ++ r ++ ascii "+"))
  | .inc2 => plain (bracketed indirect (ascii "," ++ r ++ ascii "++"))
  | .dec1 => plain (bracketed indirect (ascii ",-" ++ r))
  | .dec2 => plain (bracketed indirect (ascii ",--" ++ r))
  | .pcr8 =>
    let off := sext8 (rawAt raw (i + 1))
    ⟨bracketed indirect (sdec off ++ ascii ",PCR"), some (targetFrom address ((required : Int) + off))⟩
  | .pcr16 =>
    let off := sext16 (be16 (rawAt raw (i + 1)) (rawAt raw (i + 2)))
    ⟨bracketed indirect (sdec off ++ ascii ",PCR"), some (targetFrom address ((required : Int) + off))⟩
  | .extInd => plain (ascii "[$" ++ hex4 (be16 (rawAt raw (i + 1)) (rawAt raw (i + 2))) ++ ascii "]")

/-- `Format6809` with the mnemonic `mn`; a mode tag outside the family gives `<?ADDRMODE?>` (R210 to R229). -/
def format6809 (t : Parameters) (mn : Text) (mode : AddressingMode) (raw : RawBytes) (address : Address) (required : Nat) :
    Rendering :=
  let p := pageBytes raw
  let i := p + 1
  match mode with
  | .m09Inherent => plain (join mn [])
  | .m09Direct => plain (join mn (ascii "<$" ++ hex2 (rawAt raw i)))
  | .m09Extended =>
    let operand := be16 (rawAt raw i) (rawAt raw (i + 1))
    ⟨join mn (ascii "$" ++ hex4 operand), if t.absTarget && isAbsoluteJump68 mn then some operand else none⟩
  | .m09Imm8 => plain (join mn (ascii "#$" ++ hex2 (rawAt raw i)))
  | .m09Imm16 => plain (join mn (ascii "#$" ++ hex4 (be16 (rawAt raw i) (rawAt raw (i + 1)))))
  | .m09Rel8 =>
    let off := sext8 (rawAt raw i)
    ⟨join mn (sdec off), some (targetFrom address ((required : Int) + off))⟩
  | .m09Rel16 =>
    let off := sext16 (be16 (rawAt raw i) (rawAt raw (i + 1)))
    ⟨join mn (sdec off), some (targetFrom address ((required : Int) + off))⟩
  | .m09RegPair =>
    plain (join mn (pairRegName (highNibble (rawAt raw i)) ++ ascii "," ++ pairRegName (lowNibble (rawAt raw i))))
  | .m09RegList => plain (join mn (registerList t.pshBit6Swapped (rawAt raw p) (rawAt raw i)))
  | .m09Indexed kind indirect =>
    let operand := indexedOperand t.const16Fixed kind indirect raw i address required
    ⟨join mn operand.body, operand.target⟩
  | _ => plain addrModeText

/-- The key of the extended-opcode lookup, `raw[0] * 256 + raw[1]` (R210; conflict C3). -/
def extendedKey (raw : RawBytes) : BitVec 16 := be16 (rawAt raw 0) (rawAt raw 1)

/-- `T6809X[key]` if present, else `?` (R210). -/
def lookup6809X (t : List (BitVec 16 × Text)) (key : BitVec 16) : Text := (t.lookup key).getD (ascii "?")

/-- The mnemonic of `Format6809` (R210). -/
def mnemonic6809 (t : Parameters) (raw : RawBytes) : Text :=
  if pageBytes raw = 0 then tableAt t.t6809 (rawAt raw 0) else lookup6809X t.t6809X (extendedKey raw)

end Sys2Proof.Machine
end

