-- ==== Sys2Proof/Machine/Mos6502.lean ====
section
/-! DEFINITION. Resolver and formatter of the 6502 and 65C02 profiles (R140 to R146). -/

namespace Sys2Proof.Machine

/-- The two-byte marker (R72). -/
def markerWord : Text := ascii "nnnn"
/-- The one-byte marker (R72). -/
def markerByte : Text := ascii "nn"
/-- The relative marker (R72). -/
def markerRel : Text := ascii "rrrr"

/-- Mode and length of a template, by its markers, tested in the order `nnnn`, `nn`, `rrrr` (R142). -/
def classify6502 (t : Text) : AddressingMode × Nat :=
  if contains t markerWord then (.m65Word, 3)
  else if contains t markerByte then (.m65Byte, 2)
  else if contains t markerRel then (.m65Rel, 2)
  else (.m65Implied, 1)

/-- `Resolve6502`: it answers on the first byte, always (R142). -/
def resolve6502 (table : Table) (raw : RawBytes) : AddressingMode × Nat :=
  classify6502 (tableAt table (rawAt raw 0))

/-- An absolute jump or call, whose operand is a target under `ABS_TARGET` (U18, D39). -/
def isAbsoluteJump65 (t : Text) : Bool := t == ascii "JMP $nnnn" || t == ascii "JSR $nnnn"

/-- `Format6502` on the template `t` (R143 to R146). A mode tag of another family gives `<?ADDRMODE?>` (DESIGN CHOICE,
log entry 9; safe: no rule produces one). -/
def format6502 (absTarget : Bool) (t : Text) (mode : AddressingMode) (raw : RawBytes) (address : Address)
    (required : Nat) : Rendering :=
  match mode with
  | .m65Implied => plain t
  | .m65Byte => plain (replaceFirst t markerByte (hex2 (rawAt raw 1)))
  | .m65Word =>
    let operand := le16 (rawAt raw 1) (rawAt raw 2)
    ⟨replaceFirst t markerWord (hex4 operand), if absTarget && isAbsoluteJump65 t then some operand else none⟩
  | .m65Rel =>
    let off := sext8 (rawAt raw 1)
    ⟨replaceFirst t markerRel (sdec off), some (targetFrom address ((required : Int) + off))⟩
  | _ => plain addrModeText

end Sys2Proof.Machine
end

