-- ==== Sys2Proof/Machine/Tables.lean ====
section
/-! DEFINITION. The reference instances of the six table parameters (R150, R151, R170, R230, R231, R280). Each line of a
256-entry table is one row of the spec's grid: the high nibble of the opcode, its sixteen low nibbles in order. -/

namespace Sys2Proof.Machine

/-- A table from its 256 strings, in the order of the opcodes (R32). -/
def tableOf (entries : List String) (h : entries.length = 256) : Table :=
  ⟨(entries.map ascii).toArray, by simpa using h⟩

/-- The 256 entries of the NMOS 6502 (R150). -/
def referenceT6502List : List String :=
   ["BRK", "ORA ($nn,X)", "?", "?", "?", "ORA $nn", "ASL $nn", "?", "PHP", "ORA #$nn", "ASL A", "?", "?", "ORA $nnnn", "ASL $nnnn", "?"] ++
   ["BPL rrrr", "ORA ($nn),Y", "?", "?", "?", "ORA $nn,X", "ASL $nn,X", "?", "CLC", "ORA $nnnn,Y", "?", "?", "?", "ORA $nnnn,X", "ASL $nnnn,X", "?"] ++
   ["JSR $nnnn", "AND ($nn,X)", "?", "?", "BIT $nn", "AND $nn", "ROL $nn", "?", "PLP", "AND #$nn", "ROL A", "?", "BIT $nnnn", "AND $nnnn", "ROL $nnnn", "?"] ++
   ["BMI rrrr", "AND ($nn),Y", "?", "?", "?", "AND $nn,X", "ROL $nn,X", "?", "SEC", "AND $nnnn,Y", "?", "?", "?", "AND $nnnn,X", "ROL $nnnn,X", "?"] ++
   ["RTI", "EOR ($nn,X)", "?", "?", "?", "EOR $nn", "LSR $nn", "?", "PHA", "EOR #$nn", "LSR A", "?", "JMP $nnnn", "EOR $nnnn", "LSR $nnnn", "?"] ++
   ["BVC rrrr", "EOR ($nn),Y", "?", "?", "?", "EOR $nn,X", "LSR $nn,X", "?", "CLI", "EOR $nnnn,Y", "?", "?", "?", "EOR $nnnn,X", "LSR $nnnn,X", "?"] ++
   ["RTS", "ADC ($nn,X)", "?", "?", "?", "ADC $nn", "ROR $nn", "?", "PLA", "ADC #$nn", "ROR A", "?", "JMP ($nnnn)", "ADC $nnnn", "ROR $nnnn", "?"] ++
   ["BVS rrrr", "ADC ($nn),Y", "?", "?", "?", "ADC $nn,X", "ROR $nn,X", "?", "SEI", "ADC $nnnn,Y", "?", "?", "?", "ADC $nnnn,X", "ROR $nnnn,X", "?"] ++
   ["?", "STA ($nn,X)", "?", "?", "STY $nn", "STA $nn", "STX $nn", "?", "DEY", "?", "TXA", "?", "STY $nnnn", "STA $nnnn", "STX $nnnn", "?"] ++
   ["BCC rrrr", "STA ($nn),Y", "?", "?", "STY $nn,X", "STA $nn,X", "STX $nn,Y", "?", "TYA", "STA $nnnn,Y", "TXS", "?", "?", "STA $nnnn,X", "?", "?"] ++
   ["LDY #$nn", "LDA ($nn,X)", "LDX #$nn", "?", "LDY $nn", "LDA $nn", "LDX $nn", "?", "TAY", "LDA #$nn", "TAX", "?", "LDY $nnnn", "LDA $nnnn", "LDX $nnnn", "?"] ++
   ["BCS rrrr", "LDA ($nn),Y", "?", "?", "LDY $nn,X", "LDA $nn,X", "LDX $nn,Y", "?", "CLV", "LDA $nnnn,Y", "TSX", "?", "LDY $nnnn,X", "LDA $nnnn,X", "LDX $nnnn,Y", "?"] ++
   ["CPY #$nn", "CMP ($nn,X)", "?", "?", "CPY $nn", "CMP $nn", "DEC $nn", "?", "INY", "CMP #$nn", "DEX", "?", "CPY $nnnn", "CMP $nnnn", "DEC $nnnn", "?"] ++
   ["BNE rrrr", "CMP ($nn),Y", "?", "?", "?", "CMP $nn,X", "DEC $nn,X", "?", "CLD", "CMP $nnnn,Y", "?", "?", "?", "CMP $nnnn,X", "DEC $nnnn,X", "?"] ++
   ["CPX #$nn", "SBC ($nn,X)", "?", "?", "CPX $nn", "SBC $nn", "INC $nn", "?", "INX", "SBC #$nn", "NOP", "?", "CPX $nnnn", "SBC $nnnn", "INC $nnnn", "?"] ++
   ["BEQ rrrr", "SBC ($nn),Y", "?", "?", "?", "SBC $nn,X", "INC $nn,X", "?", "SED", "SBC $nnnn,Y", "?", "?", "?", "SBC $nnnn,X", "INC $nnnn,X", "?"]

/-- Reference instance: the NMOS 6502 (R150). -/
def referenceT6502 : Table := tableOf referenceT6502List (by decide +kernel)

/-- The 256 entries of the CMOS 65C02 (R151). -/
def referenceT65C02List : List String :=
   ["BRK", "ORA ($nn,X)", "?", "?", "TSB $nn", "ORA $nn", "ASL $nn", "?", "PHP", "ORA #$nn", "ASL A", "?", "TSB $nnnn", "ORA $nnnn", "ASL $nnnn", "?"] ++
   ["BPL rrrr", "ORA ($nn),Y", "ORA ($nn)", "?", "TRB $nn", "ORA $nn,X", "ASL $nn,X", "?", "CLC", "ORA $nnnn,Y", "INC A", "?", "TRB $nnnn", "ORA $nnnn,X", "ASL $nnnn,X", "?"] ++
   ["JSR $nnnn", "AND ($nn,X)", "?", "?", "BIT $nn", "AND $nn", "ROL $nn", "?", "PLP", "AND #$nn", "ROL A", "?", "BIT $nnnn", "AND $nnnn", "ROL $nnnn", "?"] ++
   ["BMI rrrr", "AND ($nn),Y", "AND ($nn)", "?", "BIT $nn,X", "AND $nn,X", "ROL $nn,X", "?", "SEC", "AND $nnnn,Y", "DEC A", "?", "BIT $nnnn,X", "AND $nnnn,X", "ROL $nnnn,X", "?"] ++
   ["RTI", "EOR ($nn,X)", "?", "?", "?", "EOR $nn", "LSR $nn", "?", "PHA", "EOR #$nn", "LSR A", "?", "JMP $nnnn", "EOR $nnnn", "LSR $nnnn", "?"] ++
   ["BVC rrrr", "EOR ($nn),Y", "EOR ($nn)", "?", "?", "EOR $nn,X", "LSR $nn,X", "?", "CLI", "EOR $nnnn,Y", "PHY", "?", "?", "EOR $nnnn,X", "LSR $nnnn,X", "?"] ++
   ["RTS", "ADC ($nn,X)", "?", "?", "STZ $nn", "ADC $nn", "ROR $nn", "?", "PLA", "ADC #$nn", "ROR A", "?", "JMP ($nnnn)", "ADC $nnnn", "ROR $nnnn", "?"] ++
   ["BVS rrrr", "ADC ($nn),Y", "ADC ($nn)", "?", "STZ $nn,X", "ADC $nn,X", "ROR $nn,X", "?", "SEI", "ADC $nnnn,Y", "PLY", "?", "JMP ($nnnn,X)", "ADC $nnnn,X", "ROR $nnnn,X", "?"] ++
   ["BRA rrrr", "STA ($nn,X)", "?", "?", "STY $nn", "STA $nn", "STX $nn", "?", "DEY", "BIT #$nn", "TXA", "?", "STY $nnnn", "STA $nnnn", "STX $nnnn", "?"] ++
   ["BCC rrrr", "STA ($nn),Y", "STA ($nn)", "?", "STY $nn,X", "STA $nn,X", "STX $nn,Y", "?", "TYA", "STA $nnnn,Y", "TXS", "?", "STZ $nnnn", "STA $nnnn,X", "STZ $nnnn,X", "?"] ++
   ["LDY #$nn", "LDA ($nn,X)", "LDX #$nn", "?", "LDY $nn", "LDA $nn", "LDX $nn", "?", "TAY", "LDA #$nn", "TAX", "?", "LDY $nnnn", "LDA $nnnn", "LDX $nnnn", "?"] ++
   ["BCS rrrr", "LDA ($nn),Y", "LDA ($nn)", "?", "LDY $nn,X", "LDA $nn,X", "LDX $nn,Y", "?", "CLV", "LDA $nnnn,Y", "TSX", "?", "LDY $nnnn,X", "LDA $nnnn,X", "LDX $nnnn,Y", "?"] ++
   ["CPY #$nn", "CMP ($nn,X)", "?", "?", "CPY $nn", "CMP $nn", "DEC $nn", "?", "INY", "CMP #$nn", "DEX", "?", "CPY $nnnn", "CMP $nnnn", "DEC $nnnn", "?"] ++
   ["BNE rrrr", "CMP ($nn),Y", "CMP ($nn)", "?", "?", "CMP $nn,X", "DEC $nn,X", "?", "CLD", "CMP $nnnn,Y", "PHX", "?", "?", "CMP $nnnn,X", "DEC $nnnn,X", "?"] ++
   ["CPX #$nn", "SBC ($nn,X)", "?", "?", "CPX $nn", "SBC $nn", "INC $nn", "?", "INX", "SBC #$nn", "NOP", "?", "CPX $nnnn", "SBC $nnnn", "INC $nnnn", "?"] ++
   ["BEQ rrrr", "SBC ($nn),Y", "SBC ($nn)", "?", "?", "SBC $nn,X", "INC $nn,X", "?", "SED", "SBC $nnnn,Y", "PLX", "?", "?", "SBC $nnnn,X", "INC $nnnn,X", "?"]

/-- Reference instance: the CMOS 65C02 (R151). -/
def referenceT65C02 : Table := tableOf referenceT65C02List (by decide +kernel)

/-- The 256 entries of the MC6800 (R170). -/
def referenceT6800List : List String :=
   ["?", "NOP", "?", "?", "?", "?", "TAP", "TPA", "INX", "DEX", "CLV", "SEV", "CLC", "SEC", "CLI", "SEI"] ++
   ["SBA", "CBA", "?", "?", "?", "?", "TAB", "TBA", "?", "DAA", "?", "ABA", "?", "?", "?", "?"] ++
   ["BRA", "?", "BHI", "BLS", "BCC", "BCS", "BNE", "BEQ", "BVC", "BVS", "BPL", "BMI", "BGE", "BLT", "BGT", "BLE"] ++
   ["TSX", "INS", "PULA", "PULB", "DES", "TXS", "PSHA", "PSHB", "?", "RTS", "?", "RTI", "?", "?", "WAI", "SWI"] ++
   ["NEGA", "?", "?", "COMA", "LSRA", "?", "RORA", "ASRA", "ASLA", "ROLA", "DECA", "?", "INCA", "TSTA", "?", "CLRA"] ++
   ["NEGB", "?", "?", "COMB", "LSRB", "?", "RORB", "ASRB", "ASLB", "ROLB", "DECB", "?", "INCB", "TSTB", "?", "CLRB"] ++
   ["NEG", "?", "?", "COM", "LSR", "?", "ROR", "ASR", "ASL", "ROL", "DEC", "?", "INC", "TST", "JMP", "CLR"] ++
   ["NEG", "?", "?", "COM", "LSR", "?", "ROR", "ASR", "ASL", "ROL", "DEC", "?", "INC", "TST", "JMP", "CLR"] ++
   ["SUBA", "CMPA", "SBCA", "?", "ANDA", "BITA", "LDAA", "?", "EORA", "ADCA", "ORAA", "ADDA", "CPX", "BSR", "LDS", "?"] ++
   ["SUBA", "CMPA", "SBCA", "?", "ANDA", "BITA", "LDAA", "STAA", "EORA", "ADCA", "ORAA", "ADDA", "CPX", "?", "LDS", "STS"] ++
   ["SUBA", "CMPA", "SBCA", "?", "ANDA", "BITA", "LDAA", "STAA", "EORA", "ADCA", "ORAA", "ADDA", "CPX", "JSR", "LDS", "STS"] ++
   ["SUBA", "CMPA", "SBCA", "?", "ANDA", "BITA", "LDAA", "STAA", "EORA", "ADCA", "ORAA", "ADDA", "CPX", "JSR", "LDS", "STS"] ++
   ["SUBB", "CMPB", "SBCB", "?", "ANDB", "BITB", "LDAB", "?", "EORB", "ADCB", "ORAB", "ADDB", "?", "?", "LDX", "?"] ++
   ["SUBB", "CMPB", "SBCB", "?", "ANDB", "BITB", "LDAB", "STAB", "EORB", "ADCB", "ORAB", "ADDB", "?", "?", "LDX", "STX"] ++
   ["SUBB", "CMPB", "SBCB", "?", "ANDB", "BITB", "LDAB", "STAB", "EORB", "ADCB", "ORAB", "ADDB", "?", "?", "LDX", "STX"] ++
   ["SUBB", "CMPB", "SBCB", "?", "ANDB", "BITB", "LDAB", "STAB", "EORB", "ADCB", "ORAB", "ADDB", "?", "?", "LDX", "STX"]

/-- Reference instance: the MC6800 (R170). -/
def referenceT6800 : Table := tableOf referenceT6800List (by decide +kernel)

/-- The 256 entries of the unprefixed MC6809 (R230). -/
def referenceT6809List : List String :=
   ["NEG", "?", "?", "COM", "LSR", "?", "ROR", "ASR", "ASL", "ROL", "DEC", "?", "INC", "TST", "JMP", "CLR"] ++
   ["?", "?", "NOP", "SYNC", "?", "?", "LBRA", "LBSR", "?", "DAA", "ORCC", "?", "ANDCC", "SEX", "EXG", "TFR"] ++
   ["BRA", "BRN", "BHI", "BLS", "BCC", "BCS", "BNE", "BEQ", "BVC", "BVS", "BPL", "BMI", "BGE", "BLT", "BGT", "BLE"] ++
   ["LEAX", "LEAY", "LEAS", "LEAU", "PSHS", "PULS", "PSHU", "PULU", "?", "RTS", "ABX", "RTI", "CWAI", "MUL", "?", "SWI"] ++
   ["NEGA", "?", "?", "COMA", "LSRA", "?", "RORA", "ASRA", "ASLA", "ROLA", "DECA", "?", "INCA", "TSTA", "?", "CLRA"] ++
   ["NEGB", "?", "?", "COMB", "LSRB", "?", "RORB", "ASRB", "ASLB", "ROLB", "DECB", "?", "INCB", "TSTB", "?", "CLRB"] ++
   ["NEG", "?", "?", "COM", "LSR", "?", "ROR", "ASR", "ASL", "ROL", "DEC", "?", "INC", "TST", "JMP", "CLR"] ++
   ["NEG", "?", "?", "COM", "LSR", "?", "ROR", "ASR", "ASL", "ROL", "DEC", "?", "INC", "TST", "JMP", "CLR"] ++
   ["SUBA", "CMPA", "SBCA", "SUBD", "ANDA", "BITA", "LDA", "?", "EORA", "ADCA", "ORA", "ADDA", "CMPX", "BSR", "LDX", "?"] ++
   ["SUBA", "CMPA", "SBCA", "SUBD", "ANDA", "BITA", "LDA", "STA", "EORA", "ADCA", "ORA", "ADDA", "CMPX", "JSR", "LDX", "STX"] ++
   ["SUBA", "CMPA", "SBCA", "SUBD", "ANDA", "BITA", "LDA", "STA", "EORA", "ADCA", "ORA", "ADDA", "CMPX", "JSR", "LDX", "STX"] ++
   ["SUBA", "CMPA", "SBCA", "SUBD", "ANDA", "BITA", "LDA", "STA", "EORA", "ADCA", "ORA", "ADDA", "CMPX", "JSR", "LDX", "STX"] ++
   ["SUBB", "CMPB", "SBCB", "ADDD", "ANDB", "BITB", "LDB", "?", "EORB", "ADCB", "ORB", "ADDB", "LDD", "?", "LDU", "?"] ++
   ["SUBB", "CMPB", "SBCB", "ADDD", "ANDB", "BITB", "LDB", "STB", "EORB", "ADCB", "ORB", "ADDB", "LDD", "STD", "LDU", "STU"] ++
   ["SUBB", "CMPB", "SBCB", "ADDD", "ANDB", "BITB", "LDB", "STB", "EORB", "ADCB", "ORB", "ADDB", "LDD", "STD", "LDU", "STU"] ++
   ["SUBB", "CMPB", "SBCB", "ADDD", "ANDB", "BITB", "LDB", "STB", "EORB", "ADCB", "ORB", "ADDB", "LDD", "STD", "LDU", "STU"]

/-- Reference instance: the unprefixed MC6809 (R230). -/
def referenceT6809 : Table := tableOf referenceT6809List (by decide +kernel)

/-- The 256 entries of the Z80 base table (R280). -/
def referenceTZ80List : List String :=
   ["NOP", "LD BC,XXXXh", "LD (BC),A", "INC BC", "INC B", "DEC B", "LD B,XXh", "RLCA", "EX AF,AF'", "ADD HL,BC", "LD A,(BC)", "DEC BC", "INC C", "DEC C", "LD C,XXh", "RRCA"] ++
   ["DJNZ rrrr", "LD DE,XXXXh", "LD (DE),A", "INC DE", "INC D", "DEC D", "LD D,XXh", "RLA", "JR rrrr", "ADD HL,DE", "LD A,(DE)", "DEC DE", "INC E", "DEC E", "LD E,XXh", "RRA"] ++
   ["JR NZ,rrrr", "LD HL,XXXXh", "LD (XXXXh),HL", "INC HL", "INC H", "DEC H", "LD H,XXh", "DAA", "JR Z,rrrr", "ADD HL,HL", "LD HL,(XXXXh)", "DEC HL", "INC L", "DEC L", "LD L,XXh", "CPL"] ++
   ["JR NC,rrrr", "LD SP,XXXXh", "LD (XXXXh),A", "INC SP", "INC (HL)", "DEC (HL)", "LD (HL),XXh", "SCF", "JR C,rrrr", "ADD HL,SP", "LD A,(XXXXh)", "DEC SP", "INC A", "DEC A", "LD A,XXh", "CCF"] ++
   ["LD B,B", "LD B,C", "LD B,D", "LD B,E", "LD B,H", "LD B,L", "LD B,(HL)", "LD B,A", "LD C,B", "LD C,C", "LD C,D", "LD C,E", "LD C,H", "LD C,L", "LD C,(HL)", "LD C,A"] ++
   ["LD D,B", "LD D,C", "LD D,D", "LD D,E", "LD D,H", "LD D,L", "LD D,(HL)", "LD D,A", "LD E,B", "LD E,C", "LD E,D", "LD E,E", "LD E,H", "LD E,L", "LD E,(HL)", "LD E,A"] ++
   ["LD H,B", "LD H,C", "LD H,D", "LD H,E", "LD H,H", "LD H,L", "LD H,(HL)", "LD H,A", "LD L,B", "LD L,C", "LD L,D", "LD L,E", "LD L,H", "LD L,L", "LD L,(HL)", "LD L,A"] ++
   ["LD (HL),B", "LD (HL),C", "LD (HL),D", "LD (HL),E", "LD (HL),H", "LD (HL),L", "HALT", "LD (HL),A", "LD A,B", "LD A,C", "LD A,D", "LD A,E", "LD A,H", "LD A,L", "LD A,(HL)", "LD A,A"] ++
   ["ADD A,B", "ADD A,C", "ADD A,D", "ADD A,E", "ADD A,H", "ADD A,L", "ADD A,(HL)", "ADD A,A", "ADC A,B", "ADC A,C", "ADC A,D", "ADC A,E", "ADC A,H", "ADC A,L", "ADC A,(HL)", "ADC A,A"] ++
   ["SUB B", "SUB C", "SUB D", "SUB E", "SUB H", "SUB L", "SUB (HL)", "SUB A", "SBC A,B", "SBC A,C", "SBC A,D", "SBC A,E", "SBC A,H", "SBC A,L", "SBC A,(HL)", "SBC A,A"] ++
   ["AND B", "AND C", "AND D", "AND E", "AND H", "AND L", "AND (HL)", "AND A", "XOR B", "XOR C", "XOR D", "XOR E", "XOR H", "XOR L", "XOR (HL)", "XOR A"] ++
   ["OR B", "OR C", "OR D", "OR E", "OR H", "OR L", "OR (HL)", "OR A", "CP B", "CP C", "CP D", "CP E", "CP H", "CP L", "CP (HL)", "CP A"] ++
   ["RET NZ", "POP BC", "JP NZ,XXXXh", "JP XXXXh", "CALL NZ,XXXXh", "PUSH BC", "ADD A,XXh", "RST 00h", "RET Z", "RET", "JP Z,XXXXh", "?", "CALL Z,XXXXh", "CALL XXXXh", "ADC A,XXh", "RST 08h"] ++
   ["RET NC", "POP DE", "JP NC,XXXXh", "OUT (XXh),A", "CALL NC,XXXXh", "PUSH DE", "SUB XXh", "RST 10h", "RET C", "EXX", "JP C,XXXXh", "IN A,(XXh)", "CALL C,XXXXh", "?", "SBC A,XXh", "RST 18h"] ++
   ["RET PO", "POP HL", "JP PO,XXXXh", "EX (SP),HL", "CALL PO,XXXXh", "PUSH HL", "AND XXh", "RST 20h", "RET PE", "JP (HL)", "JP PE,XXXXh", "EX DE,HL", "CALL PE,XXXXh", "?", "XOR XXh", "RST 28h"] ++
   ["RET P", "POP AF", "JP P,XXXXh", "DI", "CALL P,XXXXh", "PUSH AF", "OR XXh", "RST 30h", "RET M", "LD SP,HL", "JP M,XXXXh", "EI", "CALL M,XXXXh", "?", "CP XXh", "RST 38h"]

/-- Reference instance: the Z80 base table (R280). -/
def referenceTZ80 : Table := tableOf referenceTZ80List (by decide +kernel)

/-- Reference instance of `T6809X`: 38 keys of page 2 and 9 of page 3 (R231). -/
def referenceT6809X : List (BitVec 16 × Text) :=
  ([(0x1021, "LBRN"), (0x1022, "LBHI"), (0x1023, "LBLS"), (0x1024, "LBCC"), (0x1025, "LBCS"), (0x1026, "LBNE"),
   (0x1027, "LBEQ"), (0x1028, "LBVC"), (0x1029, "LBVS"), (0x102A, "LBPL"), (0x102B, "LBMI"), (0x102C, "LBGE"),
   (0x102D, "LBLT"), (0x102E, "LBGT"), (0x102F, "LBLE"), (0x103F, "SWI2"), (0x1083, "CMPD"), (0x108C, "CMPY"),
   (0x108E, "LDY"), (0x1093, "CMPD"), (0x109C, "CMPY"), (0x109E, "LDY"), (0x109F, "STY"), (0x10A3, "CMPD"),
   (0x10AC, "CMPY"), (0x10AE, "LDY"), (0x10AF, "STY"), (0x10B3, "CMPD"), (0x10BC, "CMPY"), (0x10BE, "LDY"),
   (0x10BF, "STY"), (0x10CE, "LDS"), (0x10DE, "LDS"), (0x10DF, "STS"), (0x10EE, "LDS"), (0x10EF, "STS"),
   (0x10FE, "LDS"), (0x10FF, "STS"), (0x113F, "SWI3"), (0x1183, "CMPU"), (0x118C, "CMPS"), (0x1193, "CMPU"),
   (0x119C, "CMPS"), (0x11A3, "CMPU"), (0x11AC, "CMPS"), (0x11B3, "CMPU"), (0x11BC, "CMPS")] : List (BitVec 16 × String)).map fun entry => (entry.1, ascii entry.2)

/-- The reference tables under the readings of the rules (R7). -/
def referenceParameters : Parameters where
  t6502 := referenceT6502
  t65C02 := referenceT65C02
  t6800 := referenceT6800
  t6809 := referenceT6809
  t6809X := referenceT6809X
  tZ80 := referenceTZ80
  imm16Opcodes := standardImm16
  pshBit6Swapped := false
  const16Fixed := false
  absTarget := false

/-- The parameters a parameter set names (R7). -/
def parametersOf : ParameterSet → Parameters
  | .reference => referenceParameters
  | .custom t => t

end Sys2Proof.Machine
end

