-- ==== Sys2Proof/Machine/Z80.lean ====
section
/-! DEFINITION. Resolver and formatter of the Z80 profile: template construction, rewrite, scan (R240 to R252,
R265 to R272). -/

namespace Sys2Proof.Machine

/-! ## Sub-fields and register names (R79, R245, R246, R248) -/

/-- `y = op[5:3]` (R79). -/
def fieldY (op : Byte) : Nat := op.toNat / 8 % 8
/-- `z = op[2:0]` (R79). -/
def fieldZ (op : Byte) : Nat := op.toNat % 8
/-- `p = op[5:4]` (R79). -/
def fieldP (op : Byte) : Nat := op.toNat / 16 % 4

/-- `R8` (R246). -/
def r8Name (z : Nat) : Text := ascii (["B", "C", "D", "E", "H", "L", "(HL)", "A"].getD z "?")
/-- `R8IO`; `y = 6` has no register and embeds `?` (R245). -/
def r8ioName (y : Nat) : Text := ascii (["B", "C", "D", "E", "H", "L", "?", "A"].getD y "?")
/-- `RR` (R245). -/
def rrName (p : Nat) : Text := ascii (["BC", "DE", "HL", "SP"].getD p "?")
/-- `ROT`; `y = 6` has no documented instruction and is `?` (R246). -/
def rotName (y : Nat) : Text := ascii (["RLC", "RRC", "RL", "RR", "SLA", "SRA", "?", "SRL"].getD y "?")
/-- The name of an index register (R241). -/
def iregName : IndexReg → Text
  | .ix => ascii "IX"
  | .iy => ascii "IY"
/-- `RRX` (R248). -/
def rrxName (r : IndexReg) (p : Nat) : Text := if p = 2 then iregName r else rrName p

/-! ## Template construction -/

/-- The digit `y` of a bit operation (R246). -/
def bitDigit (op : Byte) : AsciiChar := hexDigit (fieldY op)

/-- `CBTemplate(op)` (R246). -/
def cbTemplate (op : Byte) : Text :=
  match op.toNat / 64 with
  | 0 => rotName (fieldY op) ++ ascii " " ++ r8Name (fieldZ op)
  | 1 => ascii "BIT " ++ bitDigit op :: ascii "," ++ r8Name (fieldZ op)
  | 2 => ascii "RES " ++ bitDigit op :: ascii "," ++ r8Name (fieldZ op)
  | _ => ascii "SET " ++ bitDigit op :: ascii "," ++ r8Name (fieldZ op)

/-- The block table of the `ED` space (R245). -/
def edBlockTable : List (Byte × String) :=
  [(0xA0, "LDI"), (0xA1, "CPI"), (0xA2, "INI"), (0xA3, "OUTI"), (0xA8, "LDD"), (0xA9, "CPD"), (0xAA, "IND"),
   (0xAB, "OUTD"), (0xB0, "LDIR"), (0xB1, "CPIR"), (0xB2, "INIR"), (0xB3, "OTIR"), (0xB8, "LDDR"), (0xB9, "CPDR"),
   (0xBA, "INDR"), (0xBB, "OTDR")]

/-- The named table of the `ED` space (R245). -/
def edNamedTable : List (Byte × String) :=
  [(0x44, "NEG"), (0x45, "RETN"), (0x4D, "RETI"), (0x46, "IM 0"), (0x56, "IM 1"), (0x5E, "IM 2"), (0x47, "LD I,A"),
   (0x4F, "LD R,A"), (0x57, "LD A,I"), (0x5F, "LD A,R"), (0x67, "RRD"), (0x6F, "RLD")]

/-- `EDTemplate(op)`: the nine tests in the spec's order, first match wins (R245). -/
def edTemplate (op : Byte) : Text :=
  match edBlockTable.lookup op with
  | some t => ascii t
  | none =>
    if op &&& 0xCF = 0x42 then ascii "SBC HL," ++ rrName (fieldP op)
    else if op &&& 0xCF = 0x4A then ascii "ADC HL," ++ rrName (fieldP op)
    else if op &&& 0xCF = 0x43 then ascii "LD (XXXXh)," ++ rrName (fieldP op)
    else if op &&& 0xCF = 0x4B then ascii "LD " ++ rrName (fieldP op) ++ ascii ",(XXXXh)"
    else if op &&& 0xC7 = 0x40 then ascii "IN " ++ r8ioName (fieldY op) ++ ascii ",(C)"
    else if op &&& 0xC7 = 0x41 then ascii "OUT (C)," ++ r8ioName (fieldY op)
    else
      match edNamedTable.lookup op with
      | some t => ascii t
      | none => ascii "?"

/-- The placeholder of a word (R73). -/
def placeholderWord : Text := ascii "XXXXh"
/-- The placeholder of a byte (R73). -/
def placeholderByte : Text := ascii "XXh"
/-- The placeholder of a displacement (R73). -/
def placeholderDisp : Text := ascii "+ddd"
/-- The placeholder of a relative offset (R73). -/
def placeholderRel : Text := ascii "rrrr"

/-- The loop of `Rewrite`: `prev` is the character before the scan position, `skip` how many characters a match has
still to pass, `jump` whether the whole template is `JP (HL)` (R247). -/
def rewriteFrom (ireg : Text) (jump : Bool) : Option AsciiChar → Nat → Text → Text
  | _, _, [] => []
  | _, skip + 1, c :: t => rewriteFrom ireg jump (some c) skip t
  | prev, 0, c :: t =>
    if startsWith (c :: t) (ascii "HL") then
      (if prev = some (asciiChar '(') ∧ startsWith (t.drop 1) (ascii ")") ∧ jump = false then ireg ++ placeholderDisp
        else ireg)
        ++ rewriteFrom ireg jump (some c) 1 t
    else c :: rewriteFrom ireg jump (some c) 0 t

/-- `Rewrite(t, ireg)`: every `HL` becomes the index register, with a displacement inside a memory reference, except
in `JP (HL)` (R247). -/
def rewriteHL (t : Text) (r : IndexReg) : Text :=
  rewriteFrom (iregName r) (t == ascii "JP (HL)") none 0 t

/-- The template after `DD` or `FD`, not followed by `CB`: the synthesized `ADD` group, else the rewritten entry of
`TZ80` (R241, R247, R248). -/
def xyTemplate (t : Table) (r : IndexReg) (op : Byte) : Text :=
  if op &&& 0xCF = 0x09 then ascii "ADD " ++ iregName r ++ ascii "," ++ rrxName r (fieldP op)
  else rewriteHL (tableAt t op) r

/-- What `Template(raw, n)` answers when it has bytes enough (R241). -/
structure Z80Template where
  text   : Text
  lead   : Nat
  dispAt : Option Nat
  deriving DecidableEq, Repr

/-- The register that `0xDD` (`IX`) or `0xFD` (`IY`) selects (R241). -/
def iregOf (b0 : Byte) : IndexReg := if b0 = 0xDD then .ix else .iy

/-- `Template(raw, n)`; `none` is "need more" (R241). -/
def templateZ80 (t : Table) (raw : RawBytes) (fetched : Nat) : Option Z80Template :=
  let b0 := rawAt raw 0
  let b1 := rawAt raw 1
  if b0 = 0xCB then (if fetched < 2 then none else some ⟨cbTemplate b1, 2, none⟩)
  else if b0 = 0xED then (if fetched < 2 then none else some ⟨edTemplate b1, 2, none⟩)
  else if b0 = 0xDD ∨ b0 = 0xFD then
    if fetched < 2 then none
    else if b1 = 0xCB then
      (if fetched < 4 then none else some ⟨rewriteHL (cbTemplate (rawAt raw 3)) (iregOf b0), 4, some 2⟩)
    else some ⟨xyTemplate t (iregOf b0) b1, 2, none⟩
  else some ⟨tableAt t b0, 1, none⟩

/-! ## Scan, width, length -/

/-- A template read left to right: a literal character or one of the four placeholders (R249). -/
inductive Piece where
  | lit (c : AsciiChar)
  | word | byte | disp | rel
  deriving DecidableEq, Repr

/-- `Scan(t)`, the literal characters kept; `skip` is how much of a placeholder is still to pass (R249). -/
def scanFrom : Nat → Text → List Piece
  | _, [] => []
  | skip + 1, _ :: t => scanFrom skip t
  | 0, c :: t =>
    if startsWith (c :: t) placeholderWord then .word :: scanFrom 4 t
    else if startsWith (c :: t) placeholderByte then .byte :: scanFrom 2 t
    else if startsWith (c :: t) placeholderDisp then .disp :: scanFrom 3 t
    else if startsWith (c :: t) placeholderRel then .rel :: scanFrom 3 t
    else .lit c :: scanFrom 0 t

/-- `Scan(t)` (R249). -/
def scanTemplate (t : Text) : List Piece := scanFrom 0 t

/-- Operand bytes of one piece (R249). -/
def pieceWidth : Piece → Nat
  | .lit _ => 0
  | .word => 2
  | .byte | .disp | .rel => 1

/-- The placeholders of a template, in order (R73). -/
def operandPieces (t : Text) : List Piece := (scanTemplate t).filter fun p => pieceWidth p != 0

/-- `Width(t)` (R249). -/
def templateWidth (t : Text) : Nat := ((scanTemplate t).map pieceWidth).sum

/-- `ResolveZ80`; `none` is a decline (R242, R250, R251). -/
def resolveZ80 (t : Table) (raw : RawBytes) (fetched : Nat) : Option (AddressingMode × Nat) :=
  (templateZ80 t raw fetched).map fun tp =>
    (.mz80Template, if tp.dispAt.isSome then 4 else tp.lead + templateWidth tp.text)

/-! ## Formatter -/

/-- The loop of `FormatZ80` over the scanned template; `next` is the next operand position. With several `rrrr` the
last target stands (R265 to R269, R272). -/
def renderPieces (raw : RawBytes) (address : Address) (dispAt : Option Nat) : Nat → List Piece → Rendering
  | _, [] => plain []
  | next, .lit c :: ps =>
    let rest := renderPieces raw address dispAt next ps
    ⟨c :: rest.body, rest.target⟩
  | next, .word :: ps =>
    let rest := renderPieces raw address dispAt (next + 2) ps
    ⟨hex4 (le16 (rawAt raw next) (rawAt raw (next + 1))) ++ ascii "h" ++ rest.body, rest.target⟩
  | next, .byte :: ps =>
    let rest := renderPieces raw address dispAt (next + 1) ps
    ⟨hex2 (rawAt raw next) ++ ascii "h" ++ rest.body, rest.target⟩
  | next, .disp :: ps =>
    match dispAt with
    | some k =>
      let rest := renderPieces raw address dispAt next ps
      ⟨pdec (sext8 (rawAt raw k)) ++ rest.body, rest.target⟩
    | none =>
      let rest := renderPieces raw address dispAt (next + 1) ps
      ⟨pdec (sext8 (rawAt raw next)) ++ rest.body, rest.target⟩
  | next, .rel :: ps =>
    let v := sext8 (rawAt raw next) + 2
    let rest := renderPieces raw address dispAt (next + 1) ps
    ⟨sdec v ++ rest.body, some (rest.target.getD (targetFrom address v))⟩

/-- An absolute jump or call, whose operand is a target under `ABS_TARGET` (U18, D39). -/
def isAbsoluteJumpZ80 (t : Text) : Bool :=
  (startsWith t (ascii "JP ") || startsWith t (ascii "CALL ")) && operandPieces t == [.word]

/-- `FormatZ80` on a template (R265). -/
def formatTemplate (absTarget : Bool) (tp : Z80Template) (raw : RawBytes) (address : Address) : Rendering :=
  let r := renderPieces raw address tp.dispAt tp.lead (scanTemplate tp.text)
  if absTarget && isAbsoluteJumpZ80 tp.text then ⟨r.body, some (le16 (rawAt raw tp.lead) (rawAt raw (tp.lead + 1)))⟩
  else r

/-- `FormatZ80`; "need more" never arises where the pass calls it (R265), and gives `<?ADDRMODE?>` (DESIGN CHOICE, log
entry 9; safe: no rule produces it). -/
def formatZ80 (absTarget : Bool) (t : Table) (raw : RawBytes) (fetched : Nat) (address : Address) : Rendering :=
  match templateZ80 t raw fetched with
  | some tp => formatTemplate absTarget tp raw address
  | none => plain addrModeText

end Sys2Proof.Machine
end

