-- ==== Sys2Proof/Syntax.lean ====
section
/-! DEFINITION. The instructions: the three commands and the rows of spec/opcode_table.json.

A row is named by its mnemonic, and the rows that share a mnemonic share a constructor; its one argument, a `Form`, says
which of these rows it is (the lead bytes, so the table and the opcode) and holds the operand bytes (log entry 1). -/

namespace Sys2Proof

/-- The two variants that share the 6502 structure (R140). -/
inductive Variant65 where
  | nmos | cmos
  deriving DecidableEq, Repr

/-- The 6809 pages that a page byte selects: page 2 by `0x10`, page 3 by `0x11` (R181). -/
inductive Page where
  | page2 | page3
  deriving DecidableEq, Repr

/-- The lead bytes of a form: the prefix and opcode bytes, so the row's table and its `match` (R71, R74, R75, R79). In
`xyCb` the displacement, which stands before the opcode byte, is part of the lead (R251). `postbyte` is a row of the
postbyte patterns, which is no whole instruction (R86). -/
inductive Lead where
  | mos6502 (variant : Variant65) (op : Byte)
  | m6800 (op : Byte)
  | m6809 (op : Byte)
  | paged (page : Page) (op : Byte)
  | z80 (op : Byte)
  | cb (op : Byte)
  | ed (op : Byte)
  | xy (reg : IndexReg) (op : Byte)
  | xyCb (reg : IndexReg) (disp op : Byte)
  | postbyte (pb : Byte)
  deriving DecidableEq, Repr

/-- The operand bytes after the lead (R80). `word` is the value, in the family's byte order (R53); `dispByte` is the
displacement and the immediate of `LD (IX+d),n`; the `index` forms are a 6809 index postbyte with the offset or address
bytes its pattern asks for (R75). -/
inductive Operand where
  | none
  | byte (value : Byte)
  | word (value : BitVec 16)
  | dispByte (disp value : Byte)
  | index (pb : Byte)
  | index8 (pb value : Byte)
  | index16 (pb : Byte) (value : BitVec 16)
  deriving DecidableEq, Repr

/-- One encoded form: which row, and its operand. -/
structure Form where
  lead    : Lead
  operand : Operand
  deriving DecidableEq, Repr

/-- The instructions: one constructor per mnemonic of spec/opcode_table.json. A docstring lists the table and the
`match` (with its `mask` where that leaves bits open) of every row the constructor stands for. -/
inductive Instr where
  /-- The command `begin(address, firstByte)` (R70, R110). -/
  | cmdBegin (address : Address) (firstByte : Byte)
  /-- The command `continue(byte)` (R70, R111). -/
  | cmdContinue (byte : Byte)
  /-- The command `complete()` (R70, R112). -/
  | cmdComplete
  /-- `BRK`: T6502 00; T65C02 00 (R143). -/
  | brk (f : Form)
  /-- `ORA ($nn,X)`: T6502 01; T65C02 01 (R144). -/
  | oraIndX (f : Form)
  /-- `ORA $nn`: T6502 05; T65C02 05 (R144). -/
  | oraZp (f : Form)
  /-- `ASL $nn`: T6502 06; T65C02 06 (R144). -/
  | aslZp (f : Form)
  /-- `PHP`: T6502 08; T65C02 08 (R143). -/
  | php (f : Form)
  /-- `ORA #$nn`: T6502 09; T65C02 09 (R144). -/
  | oraImm (f : Form)
  /-- `ASL A`: T6502 0A; T65C02 0A (R143). -/
  | aslAcc (f : Form)
  /-- `ORA $nnnn`: T6502 0D; T65C02 0D (R145). -/
  | oraAbs (f : Form)
  /-- `ASL $nnnn`: T6502 0E; T65C02 0E (R145). -/
  | aslAbs (f : Form)
  /-- `BPL rrrr`: T6502 10; T65C02 10 (R146). -/
  | bplRel (f : Form)
  /-- `ORA ($nn),Y`: T6502 11; T65C02 11 (R144). -/
  | oraIndY (f : Form)
  /-- `ORA $nn,X`: T6502 15; T65C02 15 (R144). -/
  | oraZpX (f : Form)
  /-- `ASL $nn,X`: T6502 16; T65C02 16 (R144). -/
  | aslZpX (f : Form)
  /-- `CLC`: T6502 18; T65C02 18; T6800 0C (R143, R164). -/
  | clc (f : Form)
  /-- `ORA $nnnn,Y`: T6502 19; T65C02 19 (R145). -/
  | oraAbsY (f : Form)
  /-- `ORA $nnnn,X`: T6502 1D; T65C02 1D (R145). -/
  | oraAbsX (f : Form)
  /-- `ASL $nnnn,X`: T6502 1E; T65C02 1E (R145). -/
  | aslAbsX (f : Form)
  /-- `JSR $nnnn`: T6502 20; T65C02 20 (R145). -/
  | jsrAbs (f : Form)
  /-- `AND ($nn,X)`: T6502 21; T65C02 21 (R144). -/
  | andIndX (f : Form)
  /-- `BIT $nn`: T6502 24; T65C02 24 (R144). -/
  | bitZp (f : Form)
  /-- `AND $nn`: T6502 25; T65C02 25 (R144). -/
  | andZp (f : Form)
  /-- `ROL $nn`: T6502 26; T65C02 26 (R144). -/
  | rolZp (f : Form)
  /-- `PLP`: T6502 28; T65C02 28 (R143). -/
  | plp (f : Form)
  /-- `AND #$nn`: T6502 29; T65C02 29 (R144). -/
  | andImm (f : Form)
  /-- `ROL A`: T6502 2A; T65C02 2A (R143). -/
  | rolAcc (f : Form)
  /-- `BIT $nnnn`: T6502 2C; T65C02 2C (R145). -/
  | bitAbs (f : Form)
  /-- `AND $nnnn`: T6502 2D; T65C02 2D (R145). -/
  | andAbs (f : Form)
  /-- `ROL $nnnn`: T6502 2E; T65C02 2E (R145). -/
  | rolAbs (f : Form)
  /-- `BMI rrrr`: T6502 30; T65C02 30 (R146). -/
  | bmiRel (f : Form)
  /-- `AND ($nn),Y`: T6502 31; T65C02 31 (R144). -/
  | andIndY (f : Form)
  /-- `AND $nn,X`: T6502 35; T65C02 35 (R144). -/
  | andZpX (f : Form)
  /-- `ROL $nn,X`: T6502 36; T65C02 36 (R144). -/
  | rolZpX (f : Form)
  /-- `SEC`: T6502 38; T65C02 38; T6800 0D (R143, R164). -/
  | sec (f : Form)
  /-- `AND $nnnn,Y`: T6502 39; T65C02 39 (R145). -/
  | andAbsY (f : Form)
  /-- `AND $nnnn,X`: T6502 3D; T65C02 3D (R145). -/
  | andAbsX (f : Form)
  /-- `ROL $nnnn,X`: T6502 3E; T65C02 3E (R145). -/
  | rolAbsX (f : Form)
  /-- `RTI`: T6502 40; T65C02 40; T6800 3B; T6809 3B (R143, R164, R211). -/
  | rti (f : Form)
  /-- `EOR ($nn,X)`: T6502 41; T65C02 41 (R144). -/
  | eorIndX (f : Form)
  /-- `EOR $nn`: T6502 45; T65C02 45 (R144). -/
  | eorZp (f : Form)
  /-- `LSR $nn`: T6502 46; T65C02 46 (R144). -/
  | lsrZp (f : Form)
  /-- `PHA`: T6502 48; T65C02 48 (R143). -/
  | pha (f : Form)
  /-- `EOR #$nn`: T6502 49; T65C02 49 (R144). -/
  | eorImm (f : Form)
  /-- `LSR A`: T6502 4A; T65C02 4A (R143). -/
  | lsrAcc (f : Form)
  /-- `JMP $nnnn`: T6502 4C; T65C02 4C (R145). -/
  | jmpAbs (f : Form)
  /-- `EOR $nnnn`: T6502 4D; T65C02 4D (R145). -/
  | eorAbs (f : Form)
  /-- `LSR $nnnn`: T6502 4E; T65C02 4E (R145). -/
  | lsrAbs (f : Form)
  /-- `BVC rrrr`: T6502 50; T65C02 50 (R146). -/
  | bvcRel (f : Form)
  /-- `EOR ($nn),Y`: T6502 51; T65C02 51 (R144). -/
  | eorIndY (f : Form)
  /-- `EOR $nn,X`: T6502 55; T65C02 55 (R144). -/
  | eorZpX (f : Form)
  /-- `LSR $nn,X`: T6502 56; T65C02 56 (R144). -/
  | lsrZpX (f : Form)
  /-- `CLI`: T6502 58; T65C02 58; T6800 0E (R143, R164). -/
  | cli (f : Form)
  /-- `EOR $nnnn,Y`: T6502 59; T65C02 59 (R145). -/
  | eorAbsY (f : Form)
  /-- `EOR $nnnn,X`: T6502 5D; T65C02 5D (R145). -/
  | eorAbsX (f : Form)
  /-- `LSR $nnnn,X`: T6502 5E; T65C02 5E (R145). -/
  | lsrAbsX (f : Form)
  /-- `RTS`: T6502 60; T65C02 60; T6800 39; T6809 39 (R143, R164, R211). -/
  | rts (f : Form)
  /-- `ADC ($nn,X)`: T6502 61; T65C02 61 (R144). -/
  | adcIndX (f : Form)
  /-- `ADC $nn`: T6502 65; T65C02 65 (R144). -/
  | adcZp (f : Form)
  /-- `ROR $nn`: T6502 66; T65C02 66 (R144). -/
  | rorZp (f : Form)
  /-- `PLA`: T6502 68; T65C02 68 (R143). -/
  | pla (f : Form)
  /-- `ADC #$nn`: T6502 69; T65C02 69 (R144). -/
  | adcImm (f : Form)
  /-- `ROR A`: T6502 6A; T65C02 6A (R143). -/
  | rorAcc (f : Form)
  /-- `JMP ($nnnn)`: T6502 6C; T65C02 6C (R145). -/
  | jmpInd (f : Form)
  /-- `ADC $nnnn`: T6502 6D; T65C02 6D (R145). -/
  | adcAbs (f : Form)
  /-- `ROR $nnnn`: T6502 6E; T65C02 6E (R145). -/
  | rorAbs (f : Form)
  /-- `BVS rrrr`: T6502 70; T65C02 70 (R146). -/
  | bvsRel (f : Form)
  /-- `ADC ($nn),Y`: T6502 71; T65C02 71 (R144). -/
  | adcIndY (f : Form)
  /-- `ADC $nn,X`: T6502 75; T65C02 75 (R144). -/
  | adcZpX (f : Form)
  /-- `ROR $nn,X`: T6502 76; T65C02 76 (R144). -/
  | rorZpX (f : Form)
  /-- `SEI`: T6502 78; T65C02 78; T6800 0F (R143, R164). -/
  | sei (f : Form)
  /-- `ADC $nnnn,Y`: T6502 79; T65C02 79 (R145). -/
  | adcAbsY (f : Form)
  /-- `ADC $nnnn,X`: T6502 7D; T65C02 7D (R145). -/
  | adcAbsX (f : Form)
  /-- `ROR $nnnn,X`: T6502 7E; T65C02 7E (R145). -/
  | rorAbsX (f : Form)
  /-- `STA ($nn,X)`: T6502 81; T65C02 81 (R144). -/
  | staIndX (f : Form)
  /-- `STY $nn`: T6502 84; T65C02 84 (R144). -/
  | styZp (f : Form)
  /-- `STA $nn`: T6502 85; T65C02 85 (R144). -/
  | staZp (f : Form)
  /-- `STX $nn`: T6502 86; T65C02 86 (R144). -/
  | stxZp (f : Form)
  /-- `DEY`: T6502 88; T65C02 88 (R143). -/
  | dey (f : Form)
  /-- `TXA`: T6502 8A; T65C02 8A (R143). -/
  | txa (f : Form)
  /-- `STY $nnnn`: T6502 8C; T65C02 8C (R145). -/
  | styAbs (f : Form)
  /-- `STA $nnnn`: T6502 8D; T65C02 8D (R145). -/
  | staAbs (f : Form)
  /-- `STX $nnnn`: T6502 8E; T65C02 8E (R145). -/
  | stxAbs (f : Form)
  /-- `BCC rrrr`: T6502 90; T65C02 90 (R146). -/
  | bccRel (f : Form)
  /-- `STA ($nn),Y`: T6502 91; T65C02 91 (R144). -/
  | staIndY (f : Form)
  /-- `STY $nn,X`: T6502 94; T65C02 94 (R144). -/
  | styZpX (f : Form)
  /-- `STA $nn,X`: T6502 95; T65C02 95 (R144). -/
  | staZpX (f : Form)
  /-- `STX $nn,Y`: T6502 96; T65C02 96 (R144). -/
  | stxZpY (f : Form)
  /-- `TYA`: T6502 98; T65C02 98 (R143). -/
  | tya (f : Form)
  /-- `STA $nnnn,Y`: T6502 99; T65C02 99 (R145). -/
  | staAbsY (f : Form)
  /-- `TXS`: T6502 9A; T65C02 9A; T6800 35 (R143, R164). -/
  | txs (f : Form)
  /-- `STA $nnnn,X`: T6502 9D; T65C02 9D (R145). -/
  | staAbsX (f : Form)
  /-- `LDY #$nn`: T6502 A0; T65C02 A0 (R144). -/
  | ldyImm (f : Form)
  /-- `LDA ($nn,X)`: T6502 A1; T65C02 A1 (R144). -/
  | ldaIndX (f : Form)
  /-- `LDX #$nn`: T6502 A2; T65C02 A2 (R144). -/
  | ldxImm (f : Form)
  /-- `LDY $nn`: T6502 A4; T65C02 A4 (R144). -/
  | ldyZp (f : Form)
  /-- `LDA $nn`: T6502 A5; T65C02 A5 (R144). -/
  | ldaZp (f : Form)
  /-- `LDX $nn`: T6502 A6; T65C02 A6 (R144). -/
  | ldxZp (f : Form)
  /-- `TAY`: T6502 A8; T65C02 A8 (R143). -/
  | tay (f : Form)
  /-- `LDA #$nn`: T6502 A9; T65C02 A9 (R144). -/
  | ldaImm (f : Form)
  /-- `TAX`: T6502 AA; T65C02 AA (R143). -/
  | tax (f : Form)
  /-- `LDY $nnnn`: T6502 AC; T65C02 AC (R145). -/
  | ldyAbs (f : Form)
  /-- `LDA $nnnn`: T6502 AD; T65C02 AD (R145). -/
  | ldaAbs (f : Form)
  /-- `LDX $nnnn`: T6502 AE; T65C02 AE (R145). -/
  | ldxAbs (f : Form)
  /-- `BCS rrrr`: T6502 B0; T65C02 B0 (R146). -/
  | bcsRel (f : Form)
  /-- `LDA ($nn),Y`: T6502 B1; T65C02 B1 (R144). -/
  | ldaIndY (f : Form)
  /-- `LDY $nn,X`: T6502 B4; T65C02 B4 (R144). -/
  | ldyZpX (f : Form)
  /-- `LDA $nn,X`: T6502 B5; T65C02 B5 (R144). -/
  | ldaZpX (f : Form)
  /-- `LDX $nn,Y`: T6502 B6; T65C02 B6 (R144). -/
  | ldxZpY (f : Form)
  /-- `CLV`: T6502 B8; T65C02 B8; T6800 0A (R143, R164). -/
  | clv (f : Form)
  /-- `LDA $nnnn,Y`: T6502 B9; T65C02 B9 (R145). -/
  | ldaAbsY (f : Form)
  /-- `TSX`: T6502 BA; T65C02 BA; T6800 30 (R143, R164). -/
  | tsx (f : Form)
  /-- `LDY $nnnn,X`: T6502 BC; T65C02 BC (R145). -/
  | ldyAbsX (f : Form)
  /-- `LDA $nnnn,X`: T6502 BD; T65C02 BD (R145). -/
  | ldaAbsX (f : Form)
  /-- `LDX $nnnn,Y`: T6502 BE; T65C02 BE (R145). -/
  | ldxAbsY (f : Form)
  /-- `CPY #$nn`: T6502 C0; T65C02 C0 (R144). -/
  | cpyImm (f : Form)
  /-- `CMP ($nn,X)`: T6502 C1; T65C02 C1 (R144). -/
  | cmpIndX (f : Form)
  /-- `CPY $nn`: T6502 C4; T65C02 C4 (R144). -/
  | cpyZp (f : Form)
  /-- `CMP $nn`: T6502 C5; T65C02 C5 (R144). -/
  | cmpZp (f : Form)
  /-- `DEC $nn`: T6502 C6; T65C02 C6 (R144). -/
  | decZp (f : Form)
  /-- `INY`: T6502 C8; T65C02 C8 (R143). -/
  | iny (f : Form)
  /-- `CMP #$nn`: T6502 C9; T65C02 C9 (R144). -/
  | cmpImm (f : Form)
  /-- `DEX`: T6502 CA; T65C02 CA; T6800 09 (R143, R164). -/
  | dex (f : Form)
  /-- `CPY $nnnn`: T6502 CC; T65C02 CC (R145). -/
  | cpyAbs (f : Form)
  /-- `CMP $nnnn`: T6502 CD; T65C02 CD (R145). -/
  | cmpAbs (f : Form)
  /-- `DEC $nnnn`: T6502 CE; T65C02 CE (R145). -/
  | decAbs (f : Form)
  /-- `BNE rrrr`: T6502 D0; T65C02 D0 (R146). -/
  | bneRel (f : Form)
  /-- `CMP ($nn),Y`: T6502 D1; T65C02 D1 (R144). -/
  | cmpIndY (f : Form)
  /-- `CMP $nn,X`: T6502 D5; T65C02 D5 (R144). -/
  | cmpZpX (f : Form)
  /-- `DEC $nn,X`: T6502 D6; T65C02 D6 (R144). -/
  | decZpX (f : Form)
  /-- `CLD`: T6502 D8; T65C02 D8 (R143). -/
  | cld (f : Form)
  /-- `CMP $nnnn,Y`: T6502 D9; T65C02 D9 (R145). -/
  | cmpAbsY (f : Form)
  /-- `CMP $nnnn,X`: T6502 DD; T65C02 DD (R145). -/
  | cmpAbsX (f : Form)
  /-- `DEC $nnnn,X`: T6502 DE; T65C02 DE (R145). -/
  | decAbsX (f : Form)
  /-- `CPX #$nn`: T6502 E0; T65C02 E0 (R144). -/
  | cpxImm (f : Form)
  /-- `SBC ($nn,X)`: T6502 E1; T65C02 E1 (R144). -/
  | sbcIndX (f : Form)
  /-- `CPX $nn`: T6502 E4; T65C02 E4 (R144). -/
  | cpxZp (f : Form)
  /-- `SBC $nn`: T6502 E5; T65C02 E5 (R144). -/
  | sbcZp (f : Form)
  /-- `INC $nn`: T6502 E6; T65C02 E6 (R144). -/
  | incZp (f : Form)
  /-- `INX`: T6502 E8; T65C02 E8; T6800 08 (R143, R164). -/
  | inx (f : Form)
  /-- `SBC #$nn`: T6502 E9; T65C02 E9 (R144). -/
  | sbcImm (f : Form)
  /-- `NOP`: T6502 EA; T65C02 EA; T6800 01; T6809 12; TZ80 DD00/DFFF 00 (R143, R164, R211, R243, R247). -/
  | nop (f : Form)
  /-- `CPX $nnnn`: T6502 EC; T65C02 EC (R145). -/
  | cpxAbs (f : Form)
  /-- `SBC $nnnn`: T6502 ED; T65C02 ED (R145). -/
  | sbcAbs (f : Form)
  /-- `INC $nnnn`: T6502 EE; T65C02 EE (R145). -/
  | incAbs (f : Form)
  /-- `BEQ rrrr`: T6502 F0; T65C02 F0 (R146). -/
  | beqRel (f : Form)
  /-- `SBC ($nn),Y`: T6502 F1; T65C02 F1 (R144). -/
  | sbcIndY (f : Form)
  /-- `SBC $nn,X`: T6502 F5; T65C02 F5 (R144). -/
  | sbcZpX (f : Form)
  /-- `INC $nn,X`: T6502 F6; T65C02 F6 (R144). -/
  | incZpX (f : Form)
  /-- `SED`: T6502 F8; T65C02 F8 (R143). -/
  | sed (f : Form)
  /-- `SBC $nnnn,Y`: T6502 F9; T65C02 F9 (R145). -/
  | sbcAbsY (f : Form)
  /-- `SBC $nnnn,X`: T6502 FD; T65C02 FD (R145). -/
  | sbcAbsX (f : Form)
  /-- `INC $nnnn,X`: T6502 FE; T65C02 FE (R145). -/
  | incAbsX (f : Form)
  /-- the 101 rows `?`: opcodes that name no instruction, in every table (R81). -/
  | unknown (f : Form)
  /-- `TSB $nn`: T65C02 04 (R144). -/
  | tsbZp (f : Form)
  /-- `TSB $nnnn`: T65C02 0C (R145). -/
  | tsbAbs (f : Form)
  /-- `ORA ($nn)`: T65C02 12 (R144). -/
  | oraZpInd (f : Form)
  /-- `TRB $nn`: T65C02 14 (R144). -/
  | trbZp (f : Form)
  /-- `INC A`: T65C02 1A; TZ80 DD3C/DFFF 3C (R143, R243, R247). -/
  | inc_a (f : Form)
  /-- `TRB $nnnn`: T65C02 1C (R145). -/
  | trbAbs (f : Form)
  /-- `AND ($nn)`: T65C02 32 (R144). -/
  | andZpInd (f : Form)
  /-- `BIT $nn,X`: T65C02 34 (R144). -/
  | bitZpX (f : Form)
  /-- `DEC A`: T65C02 3A; TZ80 DD3D/DFFF 3D (R143, R243, R247). -/
  | dec_a (f : Form)
  /-- `BIT $nnnn,X`: T65C02 3C (R145). -/
  | bitAbsX (f : Form)
  /-- `EOR ($nn)`: T65C02 52 (R144). -/
  | eorZpInd (f : Form)
  /-- `PHY`: T65C02 5A (R143). -/
  | phy (f : Form)
  /-- `STZ $nn`: T65C02 64 (R144). -/
  | stzZp (f : Form)
  /-- `ADC ($nn)`: T65C02 72 (R144). -/
  | adcZpInd (f : Form)
  /-- `STZ $nn,X`: T65C02 74 (R144). -/
  | stzZpX (f : Form)
  /-- `PLY`: T65C02 7A (R143). -/
  | ply (f : Form)
  /-- `JMP ($nnnn,X)`: T65C02 7C (R145). -/
  | jmpAbsIndX (f : Form)
  /-- `BRA rrrr`: T65C02 80 (R146). -/
  | braRel (f : Form)
  /-- `BIT #$nn`: T65C02 89 (R144). -/
  | bitImm (f : Form)
  /-- `STA ($nn)`: T65C02 92 (R144). -/
  | staZpInd (f : Form)
  /-- `STZ $nnnn`: T65C02 9C (R145). -/
  | stzAbs (f : Form)
  /-- `STZ $nnnn,X`: T65C02 9E (R145). -/
  | stzAbsX (f : Form)
  /-- `LDA ($nn)`: T65C02 B2 (R144). -/
  | ldaZpInd (f : Form)
  /-- `CMP ($nn)`: T65C02 D2 (R144). -/
  | cmpZpInd (f : Form)
  /-- `PHX`: T65C02 DA (R143). -/
  | phx (f : Form)
  /-- `SBC ($nn)`: T65C02 F2 (R144). -/
  | sbcZpInd (f : Form)
  /-- `PLX`: T65C02 FA (R143). -/
  | plx (f : Form)
  /-- `TAP`: T6800 06 (R164). -/
  | tap (f : Form)
  /-- `TPA`: T6800 07 (R164). -/
  | tpa (f : Form)
  /-- `SEV`: T6800 0B (R164). -/
  | sev (f : Form)
  /-- `SBA`: T6800 10 (R164). -/
  | sba (f : Form)
  /-- `CBA`: T6800 11 (R164). -/
  | cba (f : Form)
  /-- `TAB`: T6800 16 (R164). -/
  | tab (f : Form)
  /-- `TBA`: T6800 17 (R164). -/
  | tba (f : Form)
  /-- `DAA`: T6800 19; T6809 19; TZ80 DD27/DFFF 27 (R164, R211, R243, R247). -/
  | daa (f : Form)
  /-- `ABA`: T6800 1B (R164). -/
  | aba (f : Form)
  /-- `BRA`: T6800 20; T6809 20 (R165, R216). -/
  | bra (f : Form)
  /-- `BHI`: T6800 22; T6809 22 (R165, R216). -/
  | bhi (f : Form)
  /-- `BLS`: T6800 23; T6809 23 (R165, R216). -/
  | bls (f : Form)
  /-- `BCC`: T6800 24; T6809 24 (R165, R216). -/
  | bcc (f : Form)
  /-- `BCS`: T6800 25; T6809 25 (R165, R216). -/
  | bcs (f : Form)
  /-- `BNE`: T6800 26; T6809 26 (R165, R216). -/
  | bne (f : Form)
  /-- `BEQ`: T6800 27; T6809 27 (R165, R216). -/
  | beq (f : Form)
  /-- `BVC`: T6800 28; T6809 28 (R165, R216). -/
  | bvc (f : Form)
  /-- `BVS`: T6800 29; T6809 29 (R165, R216). -/
  | bvs (f : Form)
  /-- `BPL`: T6800 2A; T6809 2A (R165, R216). -/
  | bpl (f : Form)
  /-- `BMI`: T6800 2B; T6809 2B (R165, R216). -/
  | bmi (f : Form)
  /-- `BGE`: T6800 2C; T6809 2C (R165, R216). -/
  | bge (f : Form)
  /-- `BLT`: T6800 2D; T6809 2D (R165, R216). -/
  | blt (f : Form)
  /-- `BGT`: T6800 2E; T6809 2E (R165, R216). -/
  | bgt (f : Form)
  /-- `BLE`: T6800 2F; T6809 2F (R165, R216). -/
  | ble (f : Form)
  /-- `INS`: T6800 31 (R164). -/
  | ins (f : Form)
  /-- `PULA`: T6800 32 (R164). -/
  | pula (f : Form)
  /-- `PULB`: T6800 33 (R164). -/
  | pulb (f : Form)
  /-- `DES`: T6800 34 (R164). -/
  | des (f : Form)
  /-- `PSHA`: T6800 36 (R164). -/
  | psha (f : Form)
  /-- `PSHB`: T6800 37 (R164). -/
  | pshb (f : Form)
  /-- `WAI`: T6800 3E (R164). -/
  | wai (f : Form)
  /-- `SWI`: T6800 3F; T6809 3F (R164, R211). -/
  | swi (f : Form)
  /-- `NEGA`: T6800 40; T6809 40 (R164, R211). -/
  | nega (f : Form)
  /-- `COMA`: T6800 43; T6809 43 (R164, R211). -/
  | coma (f : Form)
  /-- `LSRA`: T6800 44; T6809 44 (R164, R211). -/
  | lsra (f : Form)
  /-- `RORA`: T6800 46; T6809 46 (R164, R211). -/
  | rora (f : Form)
  /-- `ASRA`: T6800 47; T6809 47 (R164, R211). -/
  | asra (f : Form)
  /-- `ASLA`: T6800 48; T6809 48 (R164, R211). -/
  | asla (f : Form)
  /-- `ROLA`: T6800 49; T6809 49 (R164, R211). -/
  | rola (f : Form)
  /-- `DECA`: T6800 4A; T6809 4A (R164, R211). -/
  | deca (f : Form)
  /-- `INCA`: T6800 4C; T6809 4C (R164, R211). -/
  | inca (f : Form)
  /-- `TSTA`: T6800 4D; T6809 4D (R164, R211). -/
  | tsta (f : Form)
  /-- `CLRA`: T6800 4F; T6809 4F (R164, R211). -/
  | clra (f : Form)
  /-- `NEGB`: T6800 50; T6809 50 (R164, R211). -/
  | negb (f : Form)
  /-- `COMB`: T6800 53; T6809 53 (R164, R211). -/
  | comb (f : Form)
  /-- `LSRB`: T6800 54; T6809 54 (R164, R211). -/
  | lsrb (f : Form)
  /-- `RORB`: T6800 56; T6809 56 (R164, R211). -/
  | rorb (f : Form)
  /-- `ASRB`: T6800 57; T6809 57 (R164, R211). -/
  | asrb (f : Form)
  /-- `ASLB`: T6800 58; T6809 58 (R164, R211). -/
  | aslb (f : Form)
  /-- `ROLB`: T6800 59; T6809 59 (R164, R211). -/
  | rolb (f : Form)
  /-- `DECB`: T6800 5A; T6809 5A (R164, R211). -/
  | decb (f : Form)
  /-- `INCB`: T6800 5C; T6809 5C (R164, R211). -/
  | incb (f : Form)
  /-- `TSTB`: T6800 5D; T6809 5D (R164, R211). -/
  | tstb (f : Form)
  /-- `CLRB`: T6800 5F; T6809 5F (R164, R211). -/
  | clrb (f : Form)
  /-- `NEG`: T6800 60 70; T6809 00 60 70; TZ80 ED44 (R166, R167, R210, R212, R213, R245). -/
  | neg (f : Form)
  /-- `COM`: T6800 63 73; T6809 03 63 73 (R166, R167, R210, R212, R213). -/
  | com (f : Form)
  /-- `LSR`: T6800 64 74; T6809 04 64 74 (R166, R167, R210, R212, R213). -/
  | lsr (f : Form)
  /-- `ROR`: T6800 66 76; T6809 06 66 76 (R166, R167, R210, R212, R213). -/
  | ror (f : Form)
  /-- `ASR`: T6800 67 77; T6809 07 67 77 (R166, R167, R210, R212, R213). -/
  | asr (f : Form)
  /-- `ASL`: T6800 68 78; T6809 08 68 78 (R166, R167, R210, R212, R213). -/
  | asl (f : Form)
  /-- `ROL`: T6800 69 79; T6809 09 69 79 (R166, R167, R210, R212, R213). -/
  | rol (f : Form)
  /-- `DEC`: T6800 6A 7A; T6809 0A 6A 7A (R166, R167, R210, R212, R213). -/
  | dec (f : Form)
  /-- `INC`: T6800 6C 7C; T6809 0C 6C 7C (R166, R167, R210, R212, R213). -/
  | inc (f : Form)
  /-- `TST`: T6800 6D 7D; T6809 0D 6D 7D (R166, R167, R210, R212, R213). -/
  | tst (f : Form)
  /-- `JMP`: T6800 6E 7E; T6809 0E 6E 7E (R166, R167, R210, R212, R213). -/
  | jmp (f : Form)
  /-- `CLR`: T6800 6F 7F; T6809 0F 6F 7F (R166, R167, R210, R212, R213). -/
  | clr (f : Form)
  /-- `SUBA`: T6800 80 90 A0 B0; T6809 80 90 A0 B0 (R166, R167, R168, R210, R212, R213, R214). -/
  | suba (f : Form)
  /-- `CMPA`: T6800 81 91 A1 B1; T6809 81 91 A1 B1 (R166, R167, R168, R210, R212, R213, R214). -/
  | cmpa (f : Form)
  /-- `SBCA`: T6800 82 92 A2 B2; T6809 82 92 A2 B2 (R166, R167, R168, R210, R212, R213, R214). -/
  | sbca (f : Form)
  /-- `ANDA`: T6800 84 94 A4 B4; T6809 84 94 A4 B4 (R166, R167, R168, R210, R212, R213, R214). -/
  | anda (f : Form)
  /-- `BITA`: T6800 85 95 A5 B5; T6809 85 95 A5 B5 (R166, R167, R168, R210, R212, R213, R214). -/
  | bita (f : Form)
  /-- `LDAA`: T6800 86 96 A6 B6 (R166, R167, R168). -/
  | ldaa (f : Form)
  /-- `EORA`: T6800 88 98 A8 B8; T6809 88 98 A8 B8 (R166, R167, R168, R210, R212, R213, R214). -/
  | eora (f : Form)
  /-- `ADCA`: T6800 89 99 A9 B9; T6809 89 99 A9 B9 (R166, R167, R168, R210, R212, R213, R214). -/
  | adca (f : Form)
  /-- `ORAA`: T6800 8A 9A AA BA (R166, R167, R168). -/
  | oraa (f : Form)
  /-- `ADDA`: T6800 8B 9B AB BB; T6809 8B 9B AB BB (R166, R167, R168, R210, R212, R213, R214). -/
  | adda (f : Form)
  /-- `CPX`: T6800 8C 9C AC BC (R166, R167, R168). -/
  | cpx (f : Form)
  /-- `BSR`: T6800 8D; T6809 8D (R165, R216). -/
  | bsr (f : Form)
  /-- `LDS`: T6800 8E 9E AE BE; T6809X 10CE 10DE 10EE 10FE (R166, R167, R168, R210, R212, R213, R215). -/
  | lds (f : Form)
  /-- `STAA`: T6800 97 A7 B7 (R166, R167). -/
  | staa (f : Form)
  /-- `STS`: T6800 9F AF BF; T6809X 10DF 10EF 10FF (R166, R167, R210, R212, R213). -/
  | sts (f : Form)
  /-- `JSR`: T6800 AD BD; T6809 9D AD BD (R166, R167, R210, R212, R213). -/
  | jsr (f : Form)
  /-- `SUBB`: T6800 C0 D0 E0 F0; T6809 C0 D0 E0 F0 (R166, R167, R168, R210, R212, R213, R214). -/
  | subb (f : Form)
  /-- `CMPB`: T6800 C1 D1 E1 F1; T6809 C1 D1 E1 F1 (R166, R167, R168, R210, R212, R213, R214). -/
  | cmpb (f : Form)
  /-- `SBCB`: T6800 C2 D2 E2 F2; T6809 C2 D2 E2 F2 (R166, R167, R168, R210, R212, R213, R214). -/
  | sbcb (f : Form)
  /-- `ANDB`: T6800 C4 D4 E4 F4; T6809 C4 D4 E4 F4 (R166, R167, R168, R210, R212, R213, R214). -/
  | andb (f : Form)
  /-- `BITB`: T6800 C5 D5 E5 F5; T6809 C5 D5 E5 F5 (R166, R167, R168, R210, R212, R213, R214). -/
  | bitb (f : Form)
  /-- `LDAB`: T6800 C6 D6 E6 F6 (R166, R167, R168). -/
  | ldab (f : Form)
  /-- `EORB`: T6800 C8 D8 E8 F8; T6809 C8 D8 E8 F8 (R166, R167, R168, R210, R212, R213, R214). -/
  | eorb (f : Form)
  /-- `ADCB`: T6800 C9 D9 E9 F9; T6809 C9 D9 E9 F9 (R166, R167, R168, R210, R212, R213, R214). -/
  | adcb (f : Form)
  /-- `ORAB`: T6800 CA DA EA FA (R166, R167, R168). -/
  | orab (f : Form)
  /-- `ADDB`: T6800 CB DB EB FB; T6809 CB DB EB FB (R166, R167, R168, R210, R212, R213, R214). -/
  | addb (f : Form)
  /-- `LDX`: T6800 CE DE EE FE; T6809 8E 9E AE BE (R166, R167, R168, R210, R212, R213, R215). -/
  | ldx (f : Form)
  /-- `STAB`: T6800 D7 E7 F7 (R166, R167). -/
  | stab (f : Form)
  /-- `STX`: T6800 DF EF FF; T6809 9F AF BF (R166, R167, R210, R212, R213). -/
  | stx (f : Form)
  /-- `LBRN`: T6809X 1021 (R217). -/
  | lbrn (f : Form)
  /-- `LBHI`: T6809X 1022 (R217). -/
  | lbhi (f : Form)
  /-- `LBLS`: T6809X 1023 (R217). -/
  | lbls (f : Form)
  /-- `LBCC`: T6809X 1024 (R217). -/
  | lbcc (f : Form)
  /-- `LBCS`: T6809X 1025 (R217). -/
  | lbcs (f : Form)
  /-- `LBNE`: T6809X 1026 (R217). -/
  | lbne (f : Form)
  /-- `LBEQ`: T6809X 1027 (R217). -/
  | lbeq (f : Form)
  /-- `LBVC`: T6809X 1028 (R217). -/
  | lbvc (f : Form)
  /-- `LBVS`: T6809X 1029 (R217). -/
  | lbvs (f : Form)
  /-- `LBPL`: T6809X 102A (R217). -/
  | lbpl (f : Form)
  /-- `LBMI`: T6809X 102B (R217). -/
  | lbmi (f : Form)
  /-- `LBGE`: T6809X 102C (R217). -/
  | lbge (f : Form)
  /-- `LBLT`: T6809X 102D (R217). -/
  | lblt (f : Form)
  /-- `LBGT`: T6809X 102E (R217). -/
  | lbgt (f : Form)
  /-- `LBLE`: T6809X 102F (R217). -/
  | lble (f : Form)
  /-- `SWI2`: T6809X 103F (R211). -/
  | swi2 (f : Form)
  /-- `CMPD`: T6809X 1083 1093 10A3 10B3 (R210, R212, R213, R215). -/
  | cmpd (f : Form)
  /-- `CMPY`: T6809X 108C 109C 10AC 10BC (R210, R212, R213, R215). -/
  | cmpy (f : Form)
  /-- `LDY`: T6809X 108E 109E 10AE 10BE (R210, R212, R213, R215). -/
  | ldy (f : Form)
  /-- `STY`: T6809X 109F 10AF 10BF (R210, R212, R213). -/
  | sty (f : Form)
  /-- `SWI3`: T6809X 113F (R211). -/
  | swi3 (f : Form)
  /-- `CMPU`: T6809X 1183 1193 11A3 11B3 (R210, R212, R213, R215). -/
  | cmpu (f : Form)
  /-- `CMPS`: T6809X 118C 119C 11AC 11BC (R210, R212, R213, R215). -/
  | cmps (f : Form)
  /-- `SYNC`: T6809 13 (R211). -/
  | sync (f : Form)
  /-- `LBRA`: T6809 16 (R217). -/
  | lbra (f : Form)
  /-- `LBSR`: T6809 17 (R217). -/
  | lbsr (f : Form)
  /-- `ORCC`: T6809 1A (R214). -/
  | orcc (f : Form)
  /-- `ANDCC`: T6809 1C (R214). -/
  | andcc (f : Form)
  /-- `SEX`: T6809 1D (R211). -/
  | sex (f : Form)
  /-- `EXG`: T6809 1E (R218). -/
  | exg (f : Form)
  /-- `TFR`: T6809 1F (R218). -/
  | tfr (f : Form)
  /-- `BRN`: T6809 21 (R216). -/
  | brn (f : Form)
  /-- `LEAX`: T6809 30 (R210). -/
  | leax (f : Form)
  /-- `LEAY`: T6809 31 (R210). -/
  | leay (f : Form)
  /-- `LEAS`: T6809 32 (R210). -/
  | leas (f : Form)
  /-- `LEAU`: T6809 33 (R210). -/
  | leau (f : Form)
  /-- `PSHS`: T6809 34 (R219). -/
  | pshs (f : Form)
  /-- `PULS`: T6809 35 (R219). -/
  | puls (f : Form)
  /-- `PSHU`: T6809 36 (R219). -/
  | pshu (f : Form)
  /-- `PULU`: T6809 37 (R219). -/
  | pulu (f : Form)
  /-- `ABX`: T6809 3A (R211). -/
  | abx (f : Form)
  /-- `CWAI`: T6809 3C (R214). -/
  | cwai (f : Form)
  /-- `MUL`: T6809 3D (R211). -/
  | mul (f : Form)
  /-- `SUBD`: T6809 83 93 A3 B3 (R210, R212, R213, R215). -/
  | subd (f : Form)
  /-- `LDA`: T6809 86 96 A6 B6 (R210, R212, R213, R214). -/
  | lda (f : Form)
  /-- `ORA`: T6809 8A 9A AA BA (R210, R212, R213, R214). -/
  | ora (f : Form)
  /-- `CMPX`: T6809 8C 9C AC BC (R210, R212, R213, R215). -/
  | cmpx (f : Form)
  /-- `STA`: T6809 97 A7 B7 (R210, R212, R213). -/
  | sta (f : Form)
  /-- `ADDD`: T6809 C3 D3 E3 F3 (R210, R212, R213, R215). -/
  | addd (f : Form)
  /-- `LDB`: T6809 C6 D6 E6 F6 (R210, R212, R213, R214). -/
  | ldb (f : Form)
  /-- `ORB`: T6809 CA DA EA FA (R210, R212, R213, R214). -/
  | orb (f : Form)
  /-- `LDD`: T6809 CC DC EC FC; TZ80 EDA8 (R210, R212, R213, R215, R245). -/
  | ldd (f : Form)
  /-- `LDU`: T6809 CE DE EE FE (R210, R212, R213, R215). -/
  | ldu (f : Form)
  /-- `STB`: T6809 D7 E7 F7 (R210, R212, R213). -/
  | stb (f : Form)
  /-- `STD`: T6809 DD ED FD (R210, R212, R213). -/
  | std (f : Form)
  /-- `STU`: T6809 DF EF FF (R210, R212, R213). -/
  | stu (f : Form)
  /-- `n,R (5-bit offset)`: Postbyte6809 00/80 (R220). -/
  | postIdx5 (f : Form)
  /-- `[$hhhh] (extended indirect)`: Postbyte6809 9F (R227). -/
  | postExtInd (f : Form)
  /-- `,R+`: Postbyte6809 80/9F (R225). -/
  | postInc1 (f : Form)
  /-- `,R++`: Postbyte6809 81/9F (R225). -/
  | postInc2 (f : Form)
  /-- `[,R++]`: Postbyte6809 91/9F (R225). -/
  | postInc2Ind (f : Form)
  /-- `,-R`: Postbyte6809 82/9F (R225). -/
  | postDec1 (f : Form)
  /-- `,--R`: Postbyte6809 83/9F (R225). -/
  | postDec2 (f : Form)
  /-- `[,--R]`: Postbyte6809 93/9F (R225). -/
  | postDec2Ind (f : Form)
  /-- `,R`: Postbyte6809 84/9F (R221). -/
  | postZero (f : Form)
  /-- `[,R]`: Postbyte6809 94/9F (R221). -/
  | postZeroInd (f : Form)
  /-- `B,R`: Postbyte6809 85/9F (R224). -/
  | postAccB (f : Form)
  /-- `[B,R]`: Postbyte6809 95/9F (R224). -/
  | postAccBInd (f : Form)
  /-- `A,R`: Postbyte6809 86/9F (R224). -/
  | postAccA (f : Form)
  /-- `[A,R]`: Postbyte6809 96/9F (R224). -/
  | postAccAInd (f : Form)
  /-- `n,R (8-bit offset)`: Postbyte6809 88/9F (R222). -/
  | postConst8 (f : Form)
  /-- `[n,R (8-bit offset)]`: Postbyte6809 98/9F (R222). -/
  | postConst8Ind (f : Form)
  /-- `n,R (16-bit offset)`: Postbyte6809 89/9F (R223). -/
  | postConst16 (f : Form)
  /-- `[n,R (16-bit offset)]`: Postbyte6809 99/9F (R223). -/
  | postConst16Ind (f : Form)
  /-- `D,R`: Postbyte6809 8B/9F (R224). -/
  | postAccD (f : Form)
  /-- `[D,R]`: Postbyte6809 9B/9F (R224). -/
  | postAccDInd (f : Form)
  /-- `n,PCR (8-bit offset)`: Postbyte6809 8C/9F (R226). -/
  | postPcr8 (f : Form)
  /-- `[n,PCR (8-bit offset)]`: Postbyte6809 9C/9F (R226). -/
  | postPcr8Ind (f : Form)
  /-- `n,PCR (16-bit offset)`: Postbyte6809 8D/9F (R226). -/
  | postPcr16 (f : Form)
  /-- `[n,PCR (16-bit offset)]`: Postbyte6809 9D/9F (R226). -/
  | postPcr16Ind (f : Form)
  /-- `<?ADDRMODE?>`: Postbyte6809 00/00 (R229). -/
  | postInvalid (f : Form)
  /-- `RLC ({ireg}+ddd)`: TZ80 DDCB0006/DFFF00FF (R251). -/
  | rlc_mXYd (f : Form)
  /-- `RRC ({ireg}+ddd)`: TZ80 DDCB000E/DFFF00FF (R251). -/
  | rrc_mXYd (f : Form)
  /-- `RL ({ireg}+ddd)`: TZ80 DDCB0016/DFFF00FF (R251). -/
  | rl_mXYd (f : Form)
  /-- `RR ({ireg}+ddd)`: TZ80 DDCB001E/DFFF00FF (R251). -/
  | rr_mXYd (f : Form)
  /-- `SLA ({ireg}+ddd)`: TZ80 DDCB0026/DFFF00FF (R251). -/
  | sla_mXYd (f : Form)
  /-- `SRA ({ireg}+ddd)`: TZ80 DDCB002E/DFFF00FF (R251). -/
  | sra_mXYd (f : Form)
  /-- `? ({ireg}+ddd)`: TZ80 DDCB0036/DFFF00FF (R251). -/
  | rotUnknown_mXYd (f : Form)
  /-- `SRL ({ireg}+ddd)`: TZ80 DDCB003E/DFFF00FF (R251). -/
  | srl_mXYd (f : Form)
  /-- `BIT 0,({ireg}+ddd)`: TZ80 DDCB0046/DFFF00FF (R251). -/
  | bit_0_mXYd (f : Form)
  /-- `BIT 1,({ireg}+ddd)`: TZ80 DDCB004E/DFFF00FF (R251). -/
  | bit_1_mXYd (f : Form)
  /-- `BIT 2,({ireg}+ddd)`: TZ80 DDCB0056/DFFF00FF (R251). -/
  | bit_2_mXYd (f : Form)
  /-- `BIT 3,({ireg}+ddd)`: TZ80 DDCB005E/DFFF00FF (R251). -/
  | bit_3_mXYd (f : Form)
  /-- `BIT 4,({ireg}+ddd)`: TZ80 DDCB0066/DFFF00FF (R251). -/
  | bit_4_mXYd (f : Form)
  /-- `BIT 5,({ireg}+ddd)`: TZ80 DDCB006E/DFFF00FF (R251). -/
  | bit_5_mXYd (f : Form)
  /-- `BIT 6,({ireg}+ddd)`: TZ80 DDCB0076/DFFF00FF (R251). -/
  | bit_6_mXYd (f : Form)
  /-- `BIT 7,({ireg}+ddd)`: TZ80 DDCB007E/DFFF00FF (R251). -/
  | bit_7_mXYd (f : Form)
  /-- `RES 0,({ireg}+ddd)`: TZ80 DDCB0086/DFFF00FF (R251). -/
  | res_0_mXYd (f : Form)
  /-- `RES 1,({ireg}+ddd)`: TZ80 DDCB008E/DFFF00FF (R251). -/
  | res_1_mXYd (f : Form)
  /-- `RES 2,({ireg}+ddd)`: TZ80 DDCB0096/DFFF00FF (R251). -/
  | res_2_mXYd (f : Form)
  /-- `RES 3,({ireg}+ddd)`: TZ80 DDCB009E/DFFF00FF (R251). -/
  | res_3_mXYd (f : Form)
  /-- `RES 4,({ireg}+ddd)`: TZ80 DDCB00A6/DFFF00FF (R251). -/
  | res_4_mXYd (f : Form)
  /-- `RES 5,({ireg}+ddd)`: TZ80 DDCB00AE/DFFF00FF (R251). -/
  | res_5_mXYd (f : Form)
  /-- `RES 6,({ireg}+ddd)`: TZ80 DDCB00B6/DFFF00FF (R251). -/
  | res_6_mXYd (f : Form)
  /-- `RES 7,({ireg}+ddd)`: TZ80 DDCB00BE/DFFF00FF (R251). -/
  | res_7_mXYd (f : Form)
  /-- `SET 0,({ireg}+ddd)`: TZ80 DDCB00C6/DFFF00FF (R251). -/
  | set_0_mXYd (f : Form)
  /-- `SET 1,({ireg}+ddd)`: TZ80 DDCB00CE/DFFF00FF (R251). -/
  | set_1_mXYd (f : Form)
  /-- `SET 2,({ireg}+ddd)`: TZ80 DDCB00D6/DFFF00FF (R251). -/
  | set_2_mXYd (f : Form)
  /-- `SET 3,({ireg}+ddd)`: TZ80 DDCB00DE/DFFF00FF (R251). -/
  | set_3_mXYd (f : Form)
  /-- `SET 4,({ireg}+ddd)`: TZ80 DDCB00E6/DFFF00FF (R251). -/
  | set_4_mXYd (f : Form)
  /-- `SET 5,({ireg}+ddd)`: TZ80 DDCB00EE/DFFF00FF (R251). -/
  | set_5_mXYd (f : Form)
  /-- `SET 6,({ireg}+ddd)`: TZ80 DDCB00F6/DFFF00FF (R251). -/
  | set_6_mXYd (f : Form)
  /-- `SET 7,({ireg}+ddd)`: TZ80 DDCB00FE/DFFF00FF (R251). -/
  | set_7_mXYd (f : Form)
  /-- `RLC {R8[z]}`: TZ80 DDCB0000/DFFF00F8 CB00/FFF8 (R246, R251). -/
  | rlc_r8 (f : Form)
  /-- `RRC {R8[z]}`: TZ80 DDCB0008/DFFF00F8 CB08/FFF8 (R246, R251). -/
  | rrc_r8 (f : Form)
  /-- `RL {R8[z]}`: TZ80 DDCB0010/DFFF00F8 CB10/FFF8 (R246, R251). -/
  | rl_r8 (f : Form)
  /-- `RR {R8[z]}`: TZ80 DDCB0018/DFFF00F8 CB18/FFF8 (R246, R251). -/
  | rr_r8 (f : Form)
  /-- `SLA {R8[z]}`: TZ80 DDCB0020/DFFF00F8 CB20/FFF8 (R246, R251). -/
  | sla_r8 (f : Form)
  /-- `SRA {R8[z]}`: TZ80 DDCB0028/DFFF00F8 CB28/FFF8 (R246, R251). -/
  | sra_r8 (f : Form)
  /-- `? {R8[z]}`: TZ80 DDCB0030/DFFF00F8 CB30/FFF8 (R246, R251). -/
  | rotUnknown_r8 (f : Form)
  /-- `SRL {R8[z]}`: TZ80 DDCB0038/DFFF00F8 CB38/FFF8 (R246, R251). -/
  | srl_r8 (f : Form)
  /-- `BIT 0,{R8[z]}`: TZ80 DDCB0040/DFFF00F8 CB40/FFF8 (R246, R251). -/
  | bit_0_r8 (f : Form)
  /-- `BIT 1,{R8[z]}`: TZ80 DDCB0048/DFFF00F8 CB48/FFF8 (R246, R251). -/
  | bit_1_r8 (f : Form)
  /-- `BIT 2,{R8[z]}`: TZ80 DDCB0050/DFFF00F8 CB50/FFF8 (R246, R251). -/
  | bit_2_r8 (f : Form)
  /-- `BIT 3,{R8[z]}`: TZ80 DDCB0058/DFFF00F8 CB58/FFF8 (R246, R251). -/
  | bit_3_r8 (f : Form)
  /-- `BIT 4,{R8[z]}`: TZ80 DDCB0060/DFFF00F8 CB60/FFF8 (R246, R251). -/
  | bit_4_r8 (f : Form)
  /-- `BIT 5,{R8[z]}`: TZ80 DDCB0068/DFFF00F8 CB68/FFF8 (R246, R251). -/
  | bit_5_r8 (f : Form)
  /-- `BIT 6,{R8[z]}`: TZ80 DDCB0070/DFFF00F8 CB70/FFF8 (R246, R251). -/
  | bit_6_r8 (f : Form)
  /-- `BIT 7,{R8[z]}`: TZ80 DDCB0078/DFFF00F8 CB78/FFF8 (R246, R251). -/
  | bit_7_r8 (f : Form)
  /-- `RES 0,{R8[z]}`: TZ80 DDCB0080/DFFF00F8 CB80/FFF8 (R246, R251). -/
  | res_0_r8 (f : Form)
  /-- `RES 1,{R8[z]}`: TZ80 DDCB0088/DFFF00F8 CB88/FFF8 (R246, R251). -/
  | res_1_r8 (f : Form)
  /-- `RES 2,{R8[z]}`: TZ80 DDCB0090/DFFF00F8 CB90/FFF8 (R246, R251). -/
  | res_2_r8 (f : Form)
  /-- `RES 3,{R8[z]}`: TZ80 DDCB0098/DFFF00F8 CB98/FFF8 (R246, R251). -/
  | res_3_r8 (f : Form)
  /-- `RES 4,{R8[z]}`: TZ80 DDCB00A0/DFFF00F8 CBA0/FFF8 (R246, R251). -/
  | res_4_r8 (f : Form)
  /-- `RES 5,{R8[z]}`: TZ80 DDCB00A8/DFFF00F8 CBA8/FFF8 (R246, R251). -/
  | res_5_r8 (f : Form)
  /-- `RES 6,{R8[z]}`: TZ80 DDCB00B0/DFFF00F8 CBB0/FFF8 (R246, R251). -/
  | res_6_r8 (f : Form)
  /-- `RES 7,{R8[z]}`: TZ80 DDCB00B8/DFFF00F8 CBB8/FFF8 (R246, R251). -/
  | res_7_r8 (f : Form)
  /-- `SET 0,{R8[z]}`: TZ80 DDCB00C0/DFFF00F8 CBC0/FFF8 (R246, R251). -/
  | set_0_r8 (f : Form)
  /-- `SET 1,{R8[z]}`: TZ80 DDCB00C8/DFFF00F8 CBC8/FFF8 (R246, R251). -/
  | set_1_r8 (f : Form)
  /-- `SET 2,{R8[z]}`: TZ80 DDCB00D0/DFFF00F8 CBD0/FFF8 (R246, R251). -/
  | set_2_r8 (f : Form)
  /-- `SET 3,{R8[z]}`: TZ80 DDCB00D8/DFFF00F8 CBD8/FFF8 (R246, R251). -/
  | set_3_r8 (f : Form)
  /-- `SET 4,{R8[z]}`: TZ80 DDCB00E0/DFFF00F8 CBE0/FFF8 (R246, R251). -/
  | set_4_r8 (f : Form)
  /-- `SET 5,{R8[z]}`: TZ80 DDCB00E8/DFFF00F8 CBE8/FFF8 (R246, R251). -/
  | set_5_r8 (f : Form)
  /-- `SET 6,{R8[z]}`: TZ80 DDCB00F0/DFFF00F8 CBF0/FFF8 (R246, R251). -/
  | set_6_r8 (f : Form)
  /-- `SET 7,{R8[z]}`: TZ80 DDCB00F8/DFFF00F8 CBF8/FFF8 (R246, R251). -/
  | set_7_r8 (f : Form)
  /-- `ADD {ireg},{RRX[p]}`: TZ80 DD09/DFCF (R248). -/
  | add_xy_rrx (f : Form)
  /-- `LD BC,XXXXh`: TZ80 DD01/DFFF 01 (R243, R247). -/
  | ld_bc_word (f : Form)
  /-- `LD (BC),A`: TZ80 DD02/DFFF 02 (R243, R247). -/
  | ld_mBC_a (f : Form)
  /-- `INC BC`: TZ80 DD03/DFFF 03 (R243, R247). -/
  | inc_bc (f : Form)
  /-- `INC B`: TZ80 DD04/DFFF 04 (R243, R247). -/
  | inc_b (f : Form)
  /-- `DEC B`: TZ80 DD05/DFFF 05 (R243, R247). -/
  | dec_b (f : Form)
  /-- `LD B,XXh`: TZ80 DD06/DFFF 06 (R243, R247). -/
  | ld_b_byte (f : Form)
  /-- `RLCA`: TZ80 DD07/DFFF 07 (R243, R247). -/
  | rlca (f : Form)
  /-- `EX AF,AF'`: TZ80 DD08/DFFF 08 (R243, R247). -/
  | ex_af_afAlt (f : Form)
  /-- `LD A,(BC)`: TZ80 DD0A/DFFF 0A (R243, R247). -/
  | ld_a_mBC (f : Form)
  /-- `DEC BC`: TZ80 DD0B/DFFF 0B (R243, R247). -/
  | dec_bc (f : Form)
  /-- `INC C`: TZ80 DD0C/DFFF 0C (R243, R247). -/
  | inc_c (f : Form)
  /-- `DEC C`: TZ80 DD0D/DFFF 0D (R243, R247). -/
  | dec_c (f : Form)
  /-- `LD C,XXh`: TZ80 DD0E/DFFF 0E (R243, R247). -/
  | ld_c_byte (f : Form)
  /-- `RRCA`: TZ80 DD0F/DFFF 0F (R243, R247). -/
  | rrca (f : Form)
  /-- `DJNZ rrrr`: TZ80 DD10/DFFF 10 (R243, R247). -/
  | djnz_rel (f : Form)
  /-- `LD DE,XXXXh`: TZ80 DD11/DFFF 11 (R243, R247). -/
  | ld_de_word (f : Form)
  /-- `LD (DE),A`: TZ80 DD12/DFFF 12 (R243, R247). -/
  | ld_mDE_a (f : Form)
  /-- `INC DE`: TZ80 DD13/DFFF 13 (R243, R247). -/
  | inc_de (f : Form)
  /-- `INC D`: TZ80 DD14/DFFF 14 (R243, R247). -/
  | inc_d (f : Form)
  /-- `DEC D`: TZ80 DD15/DFFF 15 (R243, R247). -/
  | dec_d (f : Form)
  /-- `LD D,XXh`: TZ80 DD16/DFFF 16 (R243, R247). -/
  | ld_d_byte (f : Form)
  /-- `RLA`: TZ80 DD17/DFFF 17 (R243, R247). -/
  | rla (f : Form)
  /-- `JR rrrr`: TZ80 DD18/DFFF 18 (R243, R247). -/
  | jr_rel (f : Form)
  /-- `LD A,(DE)`: TZ80 DD1A/DFFF 1A (R243, R247). -/
  | ld_a_mDE (f : Form)
  /-- `DEC DE`: TZ80 DD1B/DFFF 1B (R243, R247). -/
  | dec_de (f : Form)
  /-- `INC E`: TZ80 DD1C/DFFF 1C (R243, R247). -/
  | inc_e (f : Form)
  /-- `DEC E`: TZ80 DD1D/DFFF 1D (R243, R247). -/
  | dec_e (f : Form)
  /-- `LD E,XXh`: TZ80 DD1E/DFFF 1E (R243, R247). -/
  | ld_e_byte (f : Form)
  /-- `RRA`: TZ80 DD1F/DFFF 1F (R243, R247). -/
  | rra (f : Form)
  /-- `JR NZ,rrrr`: TZ80 DD20/DFFF 20 (R243, R247). -/
  | jr_nz_rel (f : Form)
  /-- `LD {ireg},XXXXh`: TZ80 DD21/DFFF (R247). -/
  | ld_xy_word (f : Form)
  /-- `LD (XXXXh),{ireg}`: TZ80 DD22/DFFF (R247). -/
  | ld_mWord_xy (f : Form)
  /-- `INC {ireg}`: TZ80 DD23/DFFF (R247). -/
  | inc_xy (f : Form)
  /-- `INC H`: TZ80 DD24/DFFF 24 (R243, R247). -/
  | inc_h (f : Form)
  /-- `DEC H`: TZ80 DD25/DFFF 25 (R243, R247). -/
  | dec_h (f : Form)
  /-- `LD H,XXh`: TZ80 DD26/DFFF 26 (R243, R247). -/
  | ld_h_byte (f : Form)
  /-- `JR Z,rrrr`: TZ80 DD28/DFFF 28 (R243, R247). -/
  | jr_z_rel (f : Form)
  /-- `LD {ireg},(XXXXh)`: TZ80 DD2A/DFFF (R247). -/
  | ld_xy_mWord (f : Form)
  /-- `DEC {ireg}`: TZ80 DD2B/DFFF (R247). -/
  | dec_xy (f : Form)
  /-- `INC L`: TZ80 DD2C/DFFF 2C (R243, R247). -/
  | inc_l (f : Form)
  /-- `DEC L`: TZ80 DD2D/DFFF 2D (R243, R247). -/
  | dec_l (f : Form)
  /-- `LD L,XXh`: TZ80 DD2E/DFFF 2E (R243, R247). -/
  | ld_l_byte (f : Form)
  /-- `CPL`: TZ80 DD2F/DFFF 2F (R243, R247). -/
  | cpl (f : Form)
  /-- `JR NC,rrrr`: TZ80 DD30/DFFF 30 (R243, R247). -/
  | jr_nc_rel (f : Form)
  /-- `LD SP,XXXXh`: TZ80 DD31/DFFF 31 (R243, R247). -/
  | ld_sp_word (f : Form)
  /-- `LD (XXXXh),A`: TZ80 DD32/DFFF 32 (R243, R247). -/
  | ld_mWord_a (f : Form)
  /-- `INC SP`: TZ80 DD33/DFFF 33 (R243, R247). -/
  | inc_sp (f : Form)
  /-- `INC ({ireg}+ddd)`: TZ80 DD34/DFFF (R247). -/
  | inc_mXYd (f : Form)
  /-- `DEC ({ireg}+ddd)`: TZ80 DD35/DFFF (R247). -/
  | dec_mXYd (f : Form)
  /-- `LD ({ireg}+ddd),XXh`: TZ80 DD36/DFFF (R247). -/
  | ld_mXYd_byte (f : Form)
  /-- `SCF`: TZ80 DD37/DFFF 37 (R243, R247). -/
  | scf (f : Form)
  /-- `JR C,rrrr`: TZ80 DD38/DFFF 38 (R243, R247). -/
  | jr_c_rel (f : Form)
  /-- `LD A,(XXXXh)`: TZ80 DD3A/DFFF 3A (R243, R247). -/
  | ld_a_mWord (f : Form)
  /-- `DEC SP`: TZ80 DD3B/DFFF 3B (R243, R247). -/
  | dec_sp (f : Form)
  /-- `LD A,XXh`: TZ80 DD3E/DFFF 3E (R243, R247). -/
  | ld_a_byte (f : Form)
  /-- `CCF`: TZ80 DD3F/DFFF 3F (R243, R247). -/
  | ccf (f : Form)
  /-- `LD B,B`: TZ80 DD40/DFFF 40 (R243, R247). -/
  | ld_b_b (f : Form)
  /-- `LD B,C`: TZ80 DD41/DFFF 41 (R243, R247). -/
  | ld_b_c (f : Form)
  /-- `LD B,D`: TZ80 DD42/DFFF 42 (R243, R247). -/
  | ld_b_d (f : Form)
  /-- `LD B,E`: TZ80 DD43/DFFF 43 (R243, R247). -/
  | ld_b_e (f : Form)
  /-- `LD B,H`: TZ80 DD44/DFFF 44 (R243, R247). -/
  | ld_b_h (f : Form)
  /-- `LD B,L`: TZ80 DD45/DFFF 45 (R243, R247). -/
  | ld_b_l (f : Form)
  /-- `LD B,({ireg}+ddd)`: TZ80 DD46/DFFF (R247). -/
  | ld_b_mXYd (f : Form)
  /-- `LD B,A`: TZ80 DD47/DFFF 47 (R243, R247). -/
  | ld_b_a (f : Form)
  /-- `LD C,B`: TZ80 DD48/DFFF 48 (R243, R247). -/
  | ld_c_b (f : Form)
  /-- `LD C,C`: TZ80 DD49/DFFF 49 (R243, R247). -/
  | ld_c_c (f : Form)
  /-- `LD C,D`: TZ80 DD4A/DFFF 4A (R243, R247). -/
  | ld_c_d (f : Form)
  /-- `LD C,E`: TZ80 DD4B/DFFF 4B (R243, R247). -/
  | ld_c_e (f : Form)
  /-- `LD C,H`: TZ80 DD4C/DFFF 4C (R243, R247). -/
  | ld_c_h (f : Form)
  /-- `LD C,L`: TZ80 DD4D/DFFF 4D (R243, R247). -/
  | ld_c_l (f : Form)
  /-- `LD C,({ireg}+ddd)`: TZ80 DD4E/DFFF (R247). -/
  | ld_c_mXYd (f : Form)
  /-- `LD C,A`: TZ80 DD4F/DFFF 4F (R243, R247). -/
  | ld_c_a (f : Form)
  /-- `LD D,B`: TZ80 DD50/DFFF 50 (R243, R247). -/
  | ld_d_b (f : Form)
  /-- `LD D,C`: TZ80 DD51/DFFF 51 (R243, R247). -/
  | ld_d_c (f : Form)
  /-- `LD D,D`: TZ80 DD52/DFFF 52 (R243, R247). -/
  | ld_d_d (f : Form)
  /-- `LD D,E`: TZ80 DD53/DFFF 53 (R243, R247). -/
  | ld_d_e (f : Form)
  /-- `LD D,H`: TZ80 DD54/DFFF 54 (R243, R247). -/
  | ld_d_h (f : Form)
  /-- `LD D,L`: TZ80 DD55/DFFF 55 (R243, R247). -/
  | ld_d_l (f : Form)
  /-- `LD D,({ireg}+ddd)`: TZ80 DD56/DFFF (R247). -/
  | ld_d_mXYd (f : Form)
  /-- `LD D,A`: TZ80 DD57/DFFF 57 (R243, R247). -/
  | ld_d_a (f : Form)
  /-- `LD E,B`: TZ80 DD58/DFFF 58 (R243, R247). -/
  | ld_e_b (f : Form)
  /-- `LD E,C`: TZ80 DD59/DFFF 59 (R243, R247). -/
  | ld_e_c (f : Form)
  /-- `LD E,D`: TZ80 DD5A/DFFF 5A (R243, R247). -/
  | ld_e_d (f : Form)
  /-- `LD E,E`: TZ80 DD5B/DFFF 5B (R243, R247). -/
  | ld_e_e (f : Form)
  /-- `LD E,H`: TZ80 DD5C/DFFF 5C (R243, R247). -/
  | ld_e_h (f : Form)
  /-- `LD E,L`: TZ80 DD5D/DFFF 5D (R243, R247). -/
  | ld_e_l (f : Form)
  /-- `LD E,({ireg}+ddd)`: TZ80 DD5E/DFFF (R247). -/
  | ld_e_mXYd (f : Form)
  /-- `LD E,A`: TZ80 DD5F/DFFF 5F (R243, R247). -/
  | ld_e_a (f : Form)
  /-- `LD H,B`: TZ80 DD60/DFFF 60 (R243, R247). -/
  | ld_h_b (f : Form)
  /-- `LD H,C`: TZ80 DD61/DFFF 61 (R243, R247). -/
  | ld_h_c (f : Form)
  /-- `LD H,D`: TZ80 DD62/DFFF 62 (R243, R247). -/
  | ld_h_d (f : Form)
  /-- `LD H,E`: TZ80 DD63/DFFF 63 (R243, R247). -/
  | ld_h_e (f : Form)
  /-- `LD H,H`: TZ80 DD64/DFFF 64 (R243, R247). -/
  | ld_h_h (f : Form)
  /-- `LD H,L`: TZ80 DD65/DFFF 65 (R243, R247). -/
  | ld_h_l (f : Form)
  /-- `LD H,({ireg}+ddd)`: TZ80 DD66/DFFF (R247). -/
  | ld_h_mXYd (f : Form)
  /-- `LD H,A`: TZ80 DD67/DFFF 67 (R243, R247). -/
  | ld_h_a (f : Form)
  /-- `LD L,B`: TZ80 DD68/DFFF 68 (R243, R247). -/
  | ld_l_b (f : Form)
  /-- `LD L,C`: TZ80 DD69/DFFF 69 (R243, R247). -/
  | ld_l_c (f : Form)
  /-- `LD L,D`: TZ80 DD6A/DFFF 6A (R243, R247). -/
  | ld_l_d (f : Form)
  /-- `LD L,E`: TZ80 DD6B/DFFF 6B (R243, R247). -/
  | ld_l_e (f : Form)
  /-- `LD L,H`: TZ80 DD6C/DFFF 6C (R243, R247). -/
  | ld_l_h (f : Form)
  /-- `LD L,L`: TZ80 DD6D/DFFF 6D (R243, R247). -/
  | ld_l_l (f : Form)
  /-- `LD L,({ireg}+ddd)`: TZ80 DD6E/DFFF (R247). -/
  | ld_l_mXYd (f : Form)
  /-- `LD L,A`: TZ80 DD6F/DFFF 6F (R243, R247). -/
  | ld_l_a (f : Form)
  /-- `LD ({ireg}+ddd),B`: TZ80 DD70/DFFF (R247). -/
  | ld_mXYd_b (f : Form)
  /-- `LD ({ireg}+ddd),C`: TZ80 DD71/DFFF (R247). -/
  | ld_mXYd_c (f : Form)
  /-- `LD ({ireg}+ddd),D`: TZ80 DD72/DFFF (R247). -/
  | ld_mXYd_d (f : Form)
  /-- `LD ({ireg}+ddd),E`: TZ80 DD73/DFFF (R247). -/
  | ld_mXYd_e (f : Form)
  /-- `LD ({ireg}+ddd),H`: TZ80 DD74/DFFF (R247). -/
  | ld_mXYd_h (f : Form)
  /-- `LD ({ireg}+ddd),L`: TZ80 DD75/DFFF (R247). -/
  | ld_mXYd_l (f : Form)
  /-- `HALT`: TZ80 DD76/DFFF 76 (R243, R247). -/
  | halt (f : Form)
  /-- `LD ({ireg}+ddd),A`: TZ80 DD77/DFFF (R247). -/
  | ld_mXYd_a (f : Form)
  /-- `LD A,B`: TZ80 DD78/DFFF 78 (R243, R247). -/
  | ld_a_b (f : Form)
  /-- `LD A,C`: TZ80 DD79/DFFF 79 (R243, R247). -/
  | ld_a_c (f : Form)
  /-- `LD A,D`: TZ80 DD7A/DFFF 7A (R243, R247). -/
  | ld_a_d (f : Form)
  /-- `LD A,E`: TZ80 DD7B/DFFF 7B (R243, R247). -/
  | ld_a_e (f : Form)
  /-- `LD A,H`: TZ80 DD7C/DFFF 7C (R243, R247). -/
  | ld_a_h (f : Form)
  /-- `LD A,L`: TZ80 DD7D/DFFF 7D (R243, R247). -/
  | ld_a_l (f : Form)
  /-- `LD A,({ireg}+ddd)`: TZ80 DD7E/DFFF (R247). -/
  | ld_a_mXYd (f : Form)
  /-- `LD A,A`: TZ80 DD7F/DFFF 7F (R243, R247). -/
  | ld_a_a (f : Form)
  /-- `ADD A,B`: TZ80 DD80/DFFF 80 (R243, R247). -/
  | add_a_b (f : Form)
  /-- `ADD A,C`: TZ80 DD81/DFFF 81 (R243, R247). -/
  | add_a_c (f : Form)
  /-- `ADD A,D`: TZ80 DD82/DFFF 82 (R243, R247). -/
  | add_a_d (f : Form)
  /-- `ADD A,E`: TZ80 DD83/DFFF 83 (R243, R247). -/
  | add_a_e (f : Form)
  /-- `ADD A,H`: TZ80 DD84/DFFF 84 (R243, R247). -/
  | add_a_h (f : Form)
  /-- `ADD A,L`: TZ80 DD85/DFFF 85 (R243, R247). -/
  | add_a_l (f : Form)
  /-- `ADD A,({ireg}+ddd)`: TZ80 DD86/DFFF (R247). -/
  | add_a_mXYd (f : Form)
  /-- `ADD A,A`: TZ80 DD87/DFFF 87 (R243, R247). -/
  | add_a_a (f : Form)
  /-- `ADC A,B`: TZ80 DD88/DFFF 88 (R243, R247). -/
  | adc_a_b (f : Form)
  /-- `ADC A,C`: TZ80 DD89/DFFF 89 (R243, R247). -/
  | adc_a_c (f : Form)
  /-- `ADC A,D`: TZ80 DD8A/DFFF 8A (R243, R247). -/
  | adc_a_d (f : Form)
  /-- `ADC A,E`: TZ80 DD8B/DFFF 8B (R243, R247). -/
  | adc_a_e (f : Form)
  /-- `ADC A,H`: TZ80 DD8C/DFFF 8C (R243, R247). -/
  | adc_a_h (f : Form)
  /-- `ADC A,L`: TZ80 DD8D/DFFF 8D (R243, R247). -/
  | adc_a_l (f : Form)
  /-- `ADC A,({ireg}+ddd)`: TZ80 DD8E/DFFF (R247). -/
  | adc_a_mXYd (f : Form)
  /-- `ADC A,A`: TZ80 DD8F/DFFF 8F (R243, R247). -/
  | adc_a_a (f : Form)
  /-- `SUB B`: TZ80 DD90/DFFF 90 (R243, R247). -/
  | sub_b (f : Form)
  /-- `SUB C`: TZ80 DD91/DFFF 91 (R243, R247). -/
  | sub_c (f : Form)
  /-- `SUB D`: TZ80 DD92/DFFF 92 (R243, R247). -/
  | sub_d (f : Form)
  /-- `SUB E`: TZ80 DD93/DFFF 93 (R243, R247). -/
  | sub_e (f : Form)
  /-- `SUB H`: TZ80 DD94/DFFF 94 (R243, R247). -/
  | sub_h (f : Form)
  /-- `SUB L`: TZ80 DD95/DFFF 95 (R243, R247). -/
  | sub_l (f : Form)
  /-- `SUB ({ireg}+ddd)`: TZ80 DD96/DFFF (R247). -/
  | sub_mXYd (f : Form)
  /-- `SUB A`: TZ80 DD97/DFFF 97 (R243, R247). -/
  | sub_a (f : Form)
  /-- `SBC A,B`: TZ80 DD98/DFFF 98 (R243, R247). -/
  | sbc_a_b (f : Form)
  /-- `SBC A,C`: TZ80 DD99/DFFF 99 (R243, R247). -/
  | sbc_a_c (f : Form)
  /-- `SBC A,D`: TZ80 DD9A/DFFF 9A (R243, R247). -/
  | sbc_a_d (f : Form)
  /-- `SBC A,E`: TZ80 DD9B/DFFF 9B (R243, R247). -/
  | sbc_a_e (f : Form)
  /-- `SBC A,H`: TZ80 DD9C/DFFF 9C (R243, R247). -/
  | sbc_a_h (f : Form)
  /-- `SBC A,L`: TZ80 DD9D/DFFF 9D (R243, R247). -/
  | sbc_a_l (f : Form)
  /-- `SBC A,({ireg}+ddd)`: TZ80 DD9E/DFFF (R247). -/
  | sbc_a_mXYd (f : Form)
  /-- `SBC A,A`: TZ80 DD9F/DFFF 9F (R243, R247). -/
  | sbc_a_a (f : Form)
  /-- `AND B`: TZ80 DDA0/DFFF A0 (R243, R247). -/
  | and_b (f : Form)
  /-- `AND C`: TZ80 DDA1/DFFF A1 (R243, R247). -/
  | and_c (f : Form)
  /-- `AND D`: TZ80 DDA2/DFFF A2 (R243, R247). -/
  | and_d (f : Form)
  /-- `AND E`: TZ80 DDA3/DFFF A3 (R243, R247). -/
  | and_e (f : Form)
  /-- `AND H`: TZ80 DDA4/DFFF A4 (R243, R247). -/
  | and_h (f : Form)
  /-- `AND L`: TZ80 DDA5/DFFF A5 (R243, R247). -/
  | and_l (f : Form)
  /-- `AND ({ireg}+ddd)`: TZ80 DDA6/DFFF (R247). -/
  | and_mXYd (f : Form)
  /-- `AND A`: TZ80 DDA7/DFFF A7 (R243, R247). -/
  | and_a (f : Form)
  /-- `XOR B`: TZ80 DDA8/DFFF A8 (R243, R247). -/
  | xor_b (f : Form)
  /-- `XOR C`: TZ80 DDA9/DFFF A9 (R243, R247). -/
  | xor_c (f : Form)
  /-- `XOR D`: TZ80 DDAA/DFFF AA (R243, R247). -/
  | xor_d (f : Form)
  /-- `XOR E`: TZ80 DDAB/DFFF AB (R243, R247). -/
  | xor_e (f : Form)
  /-- `XOR H`: TZ80 DDAC/DFFF AC (R243, R247). -/
  | xor_h (f : Form)
  /-- `XOR L`: TZ80 DDAD/DFFF AD (R243, R247). -/
  | xor_l (f : Form)
  /-- `XOR ({ireg}+ddd)`: TZ80 DDAE/DFFF (R247). -/
  | xor_mXYd (f : Form)
  /-- `XOR A`: TZ80 DDAF/DFFF AF (R243, R247). -/
  | xor_a (f : Form)
  /-- `OR B`: TZ80 DDB0/DFFF B0 (R243, R247). -/
  | or_b (f : Form)
  /-- `OR C`: TZ80 DDB1/DFFF B1 (R243, R247). -/
  | or_c (f : Form)
  /-- `OR D`: TZ80 DDB2/DFFF B2 (R243, R247). -/
  | or_d (f : Form)
  /-- `OR E`: TZ80 DDB3/DFFF B3 (R243, R247). -/
  | or_e (f : Form)
  /-- `OR H`: TZ80 DDB4/DFFF B4 (R243, R247). -/
  | or_h (f : Form)
  /-- `OR L`: TZ80 DDB5/DFFF B5 (R243, R247). -/
  | or_l (f : Form)
  /-- `OR ({ireg}+ddd)`: TZ80 DDB6/DFFF (R247). -/
  | or_mXYd (f : Form)
  /-- `OR A`: TZ80 DDB7/DFFF B7 (R243, R247). -/
  | or_a (f : Form)
  /-- `CP B`: TZ80 DDB8/DFFF B8 (R243, R247). -/
  | cp_b (f : Form)
  /-- `CP C`: TZ80 DDB9/DFFF B9 (R243, R247). -/
  | cp_c (f : Form)
  /-- `CP D`: TZ80 DDBA/DFFF BA (R243, R247). -/
  | cp_d (f : Form)
  /-- `CP E`: TZ80 DDBB/DFFF BB (R243, R247). -/
  | cp_e (f : Form)
  /-- `CP H`: TZ80 DDBC/DFFF BC (R243, R247). -/
  | cp_h (f : Form)
  /-- `CP L`: TZ80 DDBD/DFFF BD (R243, R247). -/
  | cp_l (f : Form)
  /-- `CP ({ireg}+ddd)`: TZ80 DDBE/DFFF (R247). -/
  | cp_mXYd (f : Form)
  /-- `CP A`: TZ80 DDBF/DFFF BF (R243, R247). -/
  | cp_a (f : Form)
  /-- `RET NZ`: TZ80 DDC0/DFFF C0 (R243, R247). -/
  | ret_nz (f : Form)
  /-- `POP BC`: TZ80 DDC1/DFFF C1 (R243, R247). -/
  | pop_bc (f : Form)
  /-- `JP NZ,XXXXh`: TZ80 DDC2/DFFF C2 (R243, R247). -/
  | jp_nz_word (f : Form)
  /-- `JP XXXXh`: TZ80 DDC3/DFFF C3 (R243, R247). -/
  | jp_word (f : Form)
  /-- `CALL NZ,XXXXh`: TZ80 DDC4/DFFF C4 (R243, R247). -/
  | call_nz_word (f : Form)
  /-- `PUSH BC`: TZ80 DDC5/DFFF C5 (R243, R247). -/
  | push_bc (f : Form)
  /-- `ADD A,XXh`: TZ80 DDC6/DFFF C6 (R243, R247). -/
  | add_a_byte (f : Form)
  /-- `RST 00h`: TZ80 DDC7/DFFF C7 (R243, R247). -/
  | rst_00h (f : Form)
  /-- `RET Z`: TZ80 DDC8/DFFF C8 (R243, R247). -/
  | ret_z (f : Form)
  /-- `RET`: TZ80 DDC9/DFFF C9 (R243, R247). -/
  | ret (f : Form)
  /-- `JP Z,XXXXh`: TZ80 DDCA/DFFF CA (R243, R247). -/
  | jp_z_word (f : Form)
  /-- `CALL Z,XXXXh`: TZ80 DDCC/DFFF CC (R243, R247). -/
  | call_z_word (f : Form)
  /-- `CALL XXXXh`: TZ80 DDCD/DFFF CD (R243, R247). -/
  | call_word (f : Form)
  /-- `ADC A,XXh`: TZ80 DDCE/DFFF CE (R243, R247). -/
  | adc_a_byte (f : Form)
  /-- `RST 08h`: TZ80 DDCF/DFFF CF (R243, R247). -/
  | rst_08h (f : Form)
  /-- `RET NC`: TZ80 DDD0/DFFF D0 (R243, R247). -/
  | ret_nc (f : Form)
  /-- `POP DE`: TZ80 DDD1/DFFF D1 (R243, R247). -/
  | pop_de (f : Form)
  /-- `JP NC,XXXXh`: TZ80 DDD2/DFFF D2 (R243, R247). -/
  | jp_nc_word (f : Form)
  /-- `OUT (XXh),A`: TZ80 DDD3/DFFF D3 (R243, R247). -/
  | out_mByte_a (f : Form)
  /-- `CALL NC,XXXXh`: TZ80 DDD4/DFFF D4 (R243, R247). -/
  | call_nc_word (f : Form)
  /-- `PUSH DE`: TZ80 DDD5/DFFF D5 (R243, R247). -/
  | push_de (f : Form)
  /-- `SUB XXh`: TZ80 DDD6/DFFF D6 (R243, R247). -/
  | sub_byte (f : Form)
  /-- `RST 10h`: TZ80 DDD7/DFFF D7 (R243, R247). -/
  | rst_10h (f : Form)
  /-- `RET C`: TZ80 DDD8/DFFF D8 (R243, R247). -/
  | ret_c (f : Form)
  /-- `EXX`: TZ80 DDD9/DFFF D9 (R243, R247). -/
  | exx (f : Form)
  /-- `JP C,XXXXh`: TZ80 DDDA/DFFF DA (R243, R247). -/
  | jp_c_word (f : Form)
  /-- `IN A,(XXh)`: TZ80 DDDB/DFFF DB (R243, R247). -/
  | in_a_mByte (f : Form)
  /-- `CALL C,XXXXh`: TZ80 DDDC/DFFF DC (R243, R247). -/
  | call_c_word (f : Form)
  /-- `SBC A,XXh`: TZ80 DDDE/DFFF DE (R243, R247). -/
  | sbc_a_byte (f : Form)
  /-- `RST 18h`: TZ80 DDDF/DFFF DF (R243, R247). -/
  | rst_18h (f : Form)
  /-- `RET PO`: TZ80 DDE0/DFFF E0 (R243, R247). -/
  | ret_po (f : Form)
  /-- `POP {ireg}`: TZ80 DDE1/DFFF (R247). -/
  | pop_xy (f : Form)
  /-- `JP PO,XXXXh`: TZ80 DDE2/DFFF E2 (R243, R247). -/
  | jp_po_word (f : Form)
  /-- `EX (SP),{ireg}`: TZ80 DDE3/DFFF (R247). -/
  | ex_mSP_xy (f : Form)
  /-- `CALL PO,XXXXh`: TZ80 DDE4/DFFF E4 (R243, R247). -/
  | call_po_word (f : Form)
  /-- `PUSH {ireg}`: TZ80 DDE5/DFFF (R247). -/
  | push_xy (f : Form)
  /-- `AND XXh`: TZ80 DDE6/DFFF E6 (R243, R247). -/
  | and_byte (f : Form)
  /-- `RST 20h`: TZ80 DDE7/DFFF E7 (R243, R247). -/
  | rst_20h (f : Form)
  /-- `RET PE`: TZ80 DDE8/DFFF E8 (R243, R247). -/
  | ret_pe (f : Form)
  /-- `JP ({ireg})`: TZ80 DDE9/DFFF (R247). -/
  | jp_mXY (f : Form)
  /-- `JP PE,XXXXh`: TZ80 DDEA/DFFF EA (R243, R247). -/
  | jp_pe_word (f : Form)
  /-- `EX DE,{ireg}`: TZ80 DDEB/DFFF (R247). -/
  | ex_de_xy (f : Form)
  /-- `CALL PE,XXXXh`: TZ80 DDEC/DFFF EC (R243, R247). -/
  | call_pe_word (f : Form)
  /-- `XOR XXh`: TZ80 DDEE/DFFF EE (R243, R247). -/
  | xor_byte (f : Form)
  /-- `RST 28h`: TZ80 DDEF/DFFF EF (R243, R247). -/
  | rst_28h (f : Form)
  /-- `RET P`: TZ80 DDF0/DFFF F0 (R243, R247). -/
  | ret_p (f : Form)
  /-- `POP AF`: TZ80 DDF1/DFFF F1 (R243, R247). -/
  | pop_af (f : Form)
  /-- `JP P,XXXXh`: TZ80 DDF2/DFFF F2 (R243, R247). -/
  | jp_p_word (f : Form)
  /-- `DI`: TZ80 DDF3/DFFF F3 (R243, R247). -/
  | di (f : Form)
  /-- `CALL P,XXXXh`: TZ80 DDF4/DFFF F4 (R243, R247). -/
  | call_p_word (f : Form)
  /-- `PUSH AF`: TZ80 DDF5/DFFF F5 (R243, R247). -/
  | push_af (f : Form)
  /-- `OR XXh`: TZ80 DDF6/DFFF F6 (R243, R247). -/
  | or_byte (f : Form)
  /-- `RST 30h`: TZ80 DDF7/DFFF F7 (R243, R247). -/
  | rst_30h (f : Form)
  /-- `RET M`: TZ80 DDF8/DFFF F8 (R243, R247). -/
  | ret_m (f : Form)
  /-- `LD SP,{ireg}`: TZ80 DDF9/DFFF (R247). -/
  | ld_sp_xy (f : Form)
  /-- `JP M,XXXXh`: TZ80 DDFA/DFFF FA (R243, R247). -/
  | jp_m_word (f : Form)
  /-- `EI`: TZ80 DDFB/DFFF FB (R243, R247). -/
  | ei (f : Form)
  /-- `CALL M,XXXXh`: TZ80 DDFC/DFFF FC (R243, R247). -/
  | call_m_word (f : Form)
  /-- `CP XXh`: TZ80 DDFE/DFFF FE (R243, R247). -/
  | cp_byte (f : Form)
  /-- `RST 38h`: TZ80 DDFF/DFFF FF (R243, R247). -/
  | rst_38h (f : Form)
  /-- `LDI`: TZ80 EDA0 (R245). -/
  | ldi (f : Form)
  /-- `CPI`: TZ80 EDA1 (R245). -/
  | cpi (f : Form)
  /-- `INI`: TZ80 EDA2 (R245). -/
  | ini (f : Form)
  /-- `OUTI`: TZ80 EDA3 (R245). -/
  | outi (f : Form)
  /-- `CPD`: TZ80 EDA9 (R245). -/
  | cpd (f : Form)
  /-- `IND`: TZ80 EDAA (R245). -/
  | ind (f : Form)
  /-- `OUTD`: TZ80 EDAB (R245). -/
  | outd (f : Form)
  /-- `LDIR`: TZ80 EDB0 (R245). -/
  | ldir (f : Form)
  /-- `CPIR`: TZ80 EDB1 (R245). -/
  | cpir (f : Form)
  /-- `INIR`: TZ80 EDB2 (R245). -/
  | inir (f : Form)
  /-- `OTIR`: TZ80 EDB3 (R245). -/
  | otir (f : Form)
  /-- `LDDR`: TZ80 EDB8 (R245). -/
  | lddr (f : Form)
  /-- `CPDR`: TZ80 EDB9 (R245). -/
  | cpdr (f : Form)
  /-- `INDR`: TZ80 EDBA (R245). -/
  | indr (f : Form)
  /-- `OTDR`: TZ80 EDBB (R245). -/
  | otdr (f : Form)
  /-- `SBC HL,{RR[p]}`: TZ80 ED42/FFCF (R245). -/
  | sbc_hl_rr (f : Form)
  /-- `ADC HL,{RR[p]}`: TZ80 ED4A/FFCF (R245). -/
  | adc_hl_rr (f : Form)
  /-- `LD (XXXXh),{RR[p]}`: TZ80 ED43/FFCF (R245). -/
  | ld_mWord_rr (f : Form)
  /-- `LD {RR[p]},(XXXXh)`: TZ80 ED4B/FFCF (R245). -/
  | ld_rr_mWord (f : Form)
  /-- `IN {R8IO[y]},(C)`: TZ80 ED40/FFC7 (R245). -/
  | in_r8io_mC (f : Form)
  /-- `OUT (C),{R8IO[y]}`: TZ80 ED41/FFC7 (R245). -/
  | out_mC_r8io (f : Form)
  /-- `RETN`: TZ80 ED45 (R245). -/
  | retn (f : Form)
  /-- `IM 0`: TZ80 ED46 (R245). -/
  | im_0 (f : Form)
  /-- `LD I,A`: TZ80 ED47 (R245). -/
  | ld_i_a (f : Form)
  /-- `RETI`: TZ80 ED4D (R245). -/
  | reti (f : Form)
  /-- `LD R,A`: TZ80 ED4F (R245). -/
  | ld_r_a (f : Form)
  /-- `IM 1`: TZ80 ED56 (R245). -/
  | im_1 (f : Form)
  /-- `LD A,I`: TZ80 ED57 (R245). -/
  | ld_a_i (f : Form)
  /-- `IM 2`: TZ80 ED5E (R245). -/
  | im_2 (f : Form)
  /-- `LD A,R`: TZ80 ED5F (R245). -/
  | ld_a_r (f : Form)
  /-- `RRD`: TZ80 ED67 (R245). -/
  | rrd (f : Form)
  /-- `RLD`: TZ80 ED6F (R245). -/
  | rld (f : Form)
  /-- `ADD HL,BC`: TZ80 09 (R243). -/
  | add_hl_bc (f : Form)
  /-- `ADD HL,DE`: TZ80 19 (R243). -/
  | add_hl_de (f : Form)
  /-- `LD HL,XXXXh`: TZ80 21 (R243). -/
  | ld_hl_word (f : Form)
  /-- `LD (XXXXh),HL`: TZ80 22 (R243). -/
  | ld_mWord_hl (f : Form)
  /-- `INC HL`: TZ80 23 (R243). -/
  | inc_hl (f : Form)
  /-- `ADD HL,HL`: TZ80 29 (R243). -/
  | add_hl_hl (f : Form)
  /-- `LD HL,(XXXXh)`: TZ80 2A (R243). -/
  | ld_hl_mWord (f : Form)
  /-- `DEC HL`: TZ80 2B (R243). -/
  | dec_hl (f : Form)
  /-- `INC (HL)`: TZ80 34 (R243). -/
  | inc_mHL (f : Form)
  /-- `DEC (HL)`: TZ80 35 (R243). -/
  | dec_mHL (f : Form)
  /-- `LD (HL),XXh`: TZ80 36 (R243). -/
  | ld_mHL_byte (f : Form)
  /-- `ADD HL,SP`: TZ80 39 (R243). -/
  | add_hl_sp (f : Form)
  /-- `LD B,(HL)`: TZ80 46 (R243). -/
  | ld_b_mHL (f : Form)
  /-- `LD C,(HL)`: TZ80 4E (R243). -/
  | ld_c_mHL (f : Form)
  /-- `LD D,(HL)`: TZ80 56 (R243). -/
  | ld_d_mHL (f : Form)
  /-- `LD E,(HL)`: TZ80 5E (R243). -/
  | ld_e_mHL (f : Form)
  /-- `LD H,(HL)`: TZ80 66 (R243). -/
  | ld_h_mHL (f : Form)
  /-- `LD L,(HL)`: TZ80 6E (R243). -/
  | ld_l_mHL (f : Form)
  /-- `LD (HL),B`: TZ80 70 (R243). -/
  | ld_mHL_b (f : Form)
  /-- `LD (HL),C`: TZ80 71 (R243). -/
  | ld_mHL_c (f : Form)
  /-- `LD (HL),D`: TZ80 72 (R243). -/
  | ld_mHL_d (f : Form)
  /-- `LD (HL),E`: TZ80 73 (R243). -/
  | ld_mHL_e (f : Form)
  /-- `LD (HL),H`: TZ80 74 (R243). -/
  | ld_mHL_h (f : Form)
  /-- `LD (HL),L`: TZ80 75 (R243). -/
  | ld_mHL_l (f : Form)
  /-- `LD (HL),A`: TZ80 77 (R243). -/
  | ld_mHL_a (f : Form)
  /-- `LD A,(HL)`: TZ80 7E (R243). -/
  | ld_a_mHL (f : Form)
  /-- `ADD A,(HL)`: TZ80 86 (R243). -/
  | add_a_mHL (f : Form)
  /-- `ADC A,(HL)`: TZ80 8E (R243). -/
  | adc_a_mHL (f : Form)
  /-- `SUB (HL)`: TZ80 96 (R243). -/
  | sub_mHL (f : Form)
  /-- `SBC A,(HL)`: TZ80 9E (R243). -/
  | sbc_a_mHL (f : Form)
  /-- `AND (HL)`: TZ80 A6 (R243). -/
  | and_mHL (f : Form)
  /-- `XOR (HL)`: TZ80 AE (R243). -/
  | xor_mHL (f : Form)
  /-- `OR (HL)`: TZ80 B6 (R243). -/
  | or_mHL (f : Form)
  /-- `CP (HL)`: TZ80 BE (R243). -/
  | cp_mHL (f : Form)
  /-- `POP HL`: TZ80 E1 (R243). -/
  | pop_hl (f : Form)
  /-- `EX (SP),HL`: TZ80 E3 (R243). -/
  | ex_mSP_hl (f : Form)
  /-- `PUSH HL`: TZ80 E5 (R243). -/
  | push_hl (f : Form)
  /-- `JP (HL)`: TZ80 E9 (R243). -/
  | jp_mHL (f : Form)
  /-- `EX DE,HL`: TZ80 EB (R243). -/
  | ex_de_hl (f : Form)
  /-- `LD SP,HL`: TZ80 F9 (R243). -/
  | ld_sp_hl (f : Form)
  deriving DecidableEq, Repr

end Sys2Proof
end

