-- ==== Sys2Proof/Machine/Forms.lean ====
section
/-! DEFINITION. Encoded forms: their bytes, the operand their row asks for under the reference tables, the profiles that
read them, and the sub-fields a row's text names (R71 to R80, R86). -/

namespace Sys2Proof.Machine

/-! ## Bytes -/

/-- The byte that selects an index register (R241). -/
def iregByte : IndexReg → Byte
  | .ix => 0xDD
  | .iy => 0xFD

/-- The page byte (R181). -/
def pageByte : Page → Byte
  | .page2 => 0x10
  | .page3 => 0x11

/-- The lead bytes of a form, first byte first (R71, R74, R75, R79). -/
def leadBytes : Lead → List Byte
  | .mos6502 _ op | .m6800 op | .m6809 op | .z80 op => [op]
  | .paged page op => [pageByte page, op]
  | .cb op => [0xCB, op]
  | .ed op => [0xED, op]
  | .xy reg op => [iregByte reg, op]
  | .xyCb reg disp op => [iregByte reg, 0xCB, disp, op]
  | .postbyte pb => [pb]

/-- The opcode byte of a lead. -/
def leadOp : Lead → Byte
  | .mos6502 _ op | .m6800 op | .m6809 op | .z80 op | .paged _ op | .cb op | .ed op | .xy _ op | .xyCb _ _ op => op
  | .postbyte pb => pb

/-- Whether the family stores the high byte of a word first (R53). -/
def isBigEndian : Lead → Bool
  | .m6800 _ | .m6809 _ | .paged _ _ | .postbyte _ => true
  | _ => false

/-- The two bytes of a word, in the family's order (R53). -/
def wordBytes (big : Bool) (w : BitVec 16) : List Byte :=
  if big then [w.extractLsb' 8 8, w.extractLsb' 0 8] else [w.extractLsb' 0 8, w.extractLsb' 8 8]

/-- The word of two stream bytes, in the family's order (R53). -/
def wordOf (big : Bool) (b0 b1 : Byte) : BitVec 16 := if big then be16 b0 b1 else le16 b0 b1

/-- The operand bytes of a form (R80). -/
def operandBytes (big : Bool) : Operand → List Byte
  | .none => []
  | .byte v => [v]
  | .word w => wordBytes big w
  | .dispByte d v => [d, v]
  | .index pb => [pb]
  | .index8 pb v => [pb, v]
  | .index16 pb w => pb :: wordBytes big w

/-- All bytes of a form, in stream order. -/
def formBytes (f : Form) : List Byte := leadBytes f.lead ++ operandBytes (isBigEndian f.lead) f.operand

/-! ## The operand a row asks for -/

/-- The shapes of an operand. -/
inductive OperandKind where
  | none | byte | word | dispByte | indexed
  deriving DecidableEq, Repr

/-- The operand of a 6502 or 6800 mode (R71, R74). -/
def kindOfMode : AddressingMode → OperandKind
  | .m65Byte | .m65Rel => .byte
  | .m65Word => .word
  | .m68Relative | .m68Indexed | .m68Direct | .m68Imm8 => .byte
  | .m68Extended | .m68Imm16 => .word
  | _ => .none

/-- The operand of a 6809 base mode, `none` being INDEXED (R75). -/
def kindOf6809 : Option AddressingMode → OperandKind
  | none => .indexed
  | some mode =>
    match extra6809 mode with
    | 0 => .none
    | 1 => .byte
    | _ => .word

/-- The operand of a Z80 template: its placeholders in order (R73, R79). No reference template holds any other list. -/
def kindOfTemplate (t : Text) : OperandKind :=
  match operandPieces t with
  | [.word] => .word
  | [.byte] | [.disp] | [.rel] => .byte
  | [.disp, .byte] => .dispByte
  | _ => .none

/-- The operand of a postbyte row: its offset bytes (R190). -/
def kindOfPostbyte (pb : Byte) : OperandKind :=
  match extra6809 (postbyteMode pb) with
  | 2 => .byte
  | 3 => .word
  | _ => .none

/-- The 6502 table of a variant (R140). -/
def table65 (t : Parameters) : Variant65 → Table
  | .nmos => t.t6502
  | .cmos => t.t65C02

/-- The operand shape of a lead under the reference tables. -/
def leadKind : Lead → OperandKind
  | .mos6502 variant op => kindOfMode (classify6502 (tableAt (table65 referenceParameters variant) op)).1
  | .m6800 op => kindOfMode (mode6800 standardImm16 op)
  | .m6809 op => kindOf6809 (baseMode6809 op false)
  | .paged _ op => kindOf6809 (baseMode6809 op true)
  | .z80 op => kindOfTemplate (tableAt referenceParameters.tZ80 op)
  | .cb _ => .none
  | .ed op => kindOfTemplate (edTemplate op)
  | .xy reg op => kindOfTemplate (xyTemplate referenceParameters.tZ80 reg op)
  | .xyCb _ _ _ => .none
  | .postbyte pb => kindOfPostbyte pb

/-- Whether an operand has a shape; an indexed operand must hold just the bytes its postbyte asks for (R75, R190). -/
def operandFits : OperandKind → Operand → Bool
  | .none, .none => true
  | .byte, .byte _ => true
  | .word, .word _ => true
  | .dispByte, .dispByte _ _ => true
  | .indexed, .index pb => extra6809 (postbyteMode pb) == 1
  | .indexed, .index8 pb _ => extra6809 (postbyteMode pb) == 2
  | .indexed, .index16 pb _ => extra6809 (postbyteMode pb) == 3
  | _, _ => false

/-- The four bytes that open a longer Z80 form (R79). -/
def isZ80LeadIn (b : Byte) : Bool := b == 0xCB || b == 0xED || b == 0xDD || b == 0xFD

/-- Whether the opcode byte of a lead is an opcode there, and not the byte that opens another lead (R181, R241). -/
def leadOpens : Lead → Bool
  | .m6809 op => !isPageByte op
  | .z80 op => !isZ80LeadIn op
  | .xy _ op => op != 0xCB
  | _ => true

/-- A form that some row of spec/opcode_table.json matches, with the operand bytes that row has. -/
def formFits (f : Form) : Bool := leadOpens f.lead && operandFits (leadKind f.lead) f.operand

/-- Whether a profile reads the rows of a lead's table (R31, R86). -/
def profileReads : Profile → Lead → Bool
  | .p6502, .mos6502 .nmos _ => true
  | .p65C02, .mos6502 .cmos _ => true
  | .p6800, .m6800 _ => true
  | .p6809, .m6809 _ | .p6809, .paged _ _ | .p6809, .postbyte _ => true
  | .p6809E, .m6809 _ | .p6809E, .paged _ _ | .p6809E, .postbyte _ => true
  | .pZ80, .z80 _ | .pZ80, .cb _ | .pZ80, .ed _ | .pZ80, .xy _ _ | .pZ80, .xyCb _ _ _ => true
  | _, _ => false

/-! ## The varying parts of a row's text (R86) -/

/-- `ireg` (R86). -/
def formIreg (f : Form) : Text :=
  match f.lead with
  | .xy reg _ | .xyCb reg _ _ => iregName reg
  | _ => []

/-- `R8[z]` (R86). -/
def formR8 (f : Form) : Text := r8Name (fieldZ (leadOp f.lead))

/-- `RR[p]` (R86). -/
def formRR (f : Form) : Text := rrName (fieldP (leadOp f.lead))

/-- `RRX[p]` (R86, R248). -/
def formRRX (f : Form) : Text :=
  match f.lead with
  | .xy reg op => rrxName reg (fieldP op)
  | _ => formRR f

/-- `R8IO[y]` (R86). -/
def formR8io (f : Form) : Text := r8ioName (fieldY (leadOp f.lead))

/-! ## Mode and rendering of a row -/

/-- The index postbyte of an operand, if it has one. -/
def operandPostbyte : Operand → Byte
  | .index pb | .index8 pb _ | .index16 pb _ => pb
  | _ => 0

/-- A 6809 base mode with the postbyte decoded (R183, R187). -/
def resolvedMode (base : Option AddressingMode) (operand : Operand) : AddressingMode :=
  match base with
  | some mode => mode
  | none => postbyteMode (operandPostbyte operand)

/-- The addressing mode of a row, from the row's text (6502) or from its bytes (R26, R86). -/
def rowMode (text : Text) (f : Form) : AddressingMode :=
  match f.lead with
  | .mos6502 _ _ => (classify6502 text).1
  | .m6800 op => mode6800 standardImm16 op
  | .m6809 op => resolvedMode (baseMode6809 op false) f.operand
  | .paged _ op => resolvedMode (baseMode6809 op true) f.operand
  | .postbyte pb => postbyteMode pb
  | _ => .mz80Template

/-- The template of a Z80 row: its text, its lead length, and where the displacement of the compound form lies (R241). -/
def rowTemplate (text : Text) (f : Form) : Z80Template :=
  match f.lead with
  | .xyCb _ _ _ => ⟨text, 4, some 2⟩
  | lead => ⟨text, (leadBytes lead).length, none⟩

/-- What the formatter of the row's family makes of the row's text (R143 to R146, R164 to R168, R210 to R228, R265). -/
def rowRendering (text : Text) (f : Form) (raw : RawBytes) (address : Address) (required : Nat) : Rendering :=
  match f.lead with
  | .mos6502 _ _ => format6502 false text (rowMode text f) raw address required
  | .m6800 _ => format6800 false text (rowMode text f) raw address
  | .m6809 _ | .paged _ _ | .postbyte _ => format6809 referenceParameters text (rowMode text f) raw address required
  | _ => formatTemplate false (rowTemplate text f) raw address

end Sys2Proof.Machine
end

