-- ==== Sys2Proof/Machine/State.lean ====
section
/-! DEFINITION. The state of the block: the session registers, the configuration registers, the answer of the last
command, and the host's side of the wire as plain data. -/

namespace Sys2Proof.Machine

/-- `state` (R21). -/
inductive SessionState where
  | idle | fetching | complete
  deriving DecidableEq, Repr

/-- `DecodeSession`: exactly the fields of R21 to R29 (R20). -/
structure Session where
  /-- `state` (R21). -/
  state : SessionState
  /-- `instructionAddress`, 32 bits (R22). -/
  instructionAddress : Address
  /-- `rawBytes`, eight entries of 8 bits (R23). -/
  rawBytes : RawBytes
  /-- `bytesFetched` (R24). -/
  bytesFetched : Nat
  /-- `bytesRequired`, 0 for "not yet determined" (R25). -/
  bytesRequired : Nat
  /-- `addressingMode` (R26). -/
  addressingMode : AddressingMode
  /-- `resolvedTargetAddress`, 16 bits (R28). -/
  resolvedTargetAddress : TargetAddress
  /-- `resolvedTargetValid` (R28). -/
  resolvedTargetValid : Bool
  /-- `outputString` (R29). -/
  outputString : Text
  deriving DecidableEq, Repr

/-- The session after reset, that is, as created (R36, R315). -/
def Session.reset : Session where
  state := .idle
  instructionAddress := 0
  rawBytes := Vector.replicate 8 0
  bytesFetched := 0
  bytesRequired := 0
  addressingMode := .unset
  resolvedTargetAddress := 0
  resolvedTargetValid := false
  outputString := []

/-- A command of the host; `feed` is `continue(byte)`, whose name Lean reserves (R70). -/
inductive Command where
  | begin (address : Address) (firstByte : Byte)
  | feed (byte : Byte)
  | complete
  deriving DecidableEq, Repr

/-- What a command returns: `begin` nothing, `continue` whether a transition out of `Fetching` occurred, `complete` a
string (R70). -/
inductive Reply where
  | nothing
  | transition (left : Bool)
  | text (output : Text)
  deriving DecidableEq, Repr

/-- What the host has ready for the block: one command, or captured bytes that lie from an address upward, to be fed
one instruction at a time (log entry 4). -/
inductive Request where
  | command (c : Command)
  | capture (address : Address) (bytes : List Byte)
  deriving DecidableEq, Repr

/-- The state of the machine. -/
structure State where
  /-- `ArchitectureProfile` (R31): set at creation, written by no step. -/
  profile : Profile
  /-- The opcode tables and the open readings (R7, R32): loaded at creation, written by no step. -/
  parameters : ParameterSet
  /-- The decode session (R20). -/
  session : Session
  /-- The result of the last command (R70). The model's own field (log entry 4): the spec returns it and stores it nowhere. -/
  reply : Reply
  /-- The address of the next captured instruction. The model's own field (log entry 4): the host's bookkeeping (R33). -/
  feedAddress : Address
  /-- What the host has still to send. The model's own field (log entry 4): the host's side of the wire (R5). -/
  inbox : List Request
  deriving DecidableEq, Repr

/-- Reasons to stop with a fault: there are none, "a model therefore has no fault state" (R290). -/
inductive Fault where
  deriving DecidableEq, Repr

/-- Reasons to refuse a command. -/
inductive Refusal where
  /-- Raised by no arm of `exec`; it is there for an instruction not yet modelled. Safe: nothing is proved of such a run. -/
  | notModelled (mnemonic : String)
  /-- Raised by `begin`, alone or as the first command of a row, in state `Fetching` (R114, R296). Safe: the machine
  stops where the spec gives no successor state. -/
  | beginWhileFetching
  deriving DecidableEq, Repr

/-- The outcome of a command or of an instruction. -/
abbrev Result := Host.Outcome State Fault Refusal

/-- A session created with a profile and its tables (R317). -/
def State.create (profile : Profile) (parameters : ParameterSet) : State where
  profile := profile
  parameters := parameters
  session := Session.reset
  reply := .nothing
  feedAddress := 0
  inbox := []

/-- The machine right after reset (R36, R315). The spec gives the profile and the tables no reset value: `P6502` and the
reference tables are named here (DESIGN CHOICE, log entries 2 and 3; unsafe). -/
def State.reset : State := State.create .p6502 .reference

end Sys2Proof.Machine
end

