-- ==== Sys2Proof/Machine/Ops.lean ====
section
/-! DEFINITION. The operations every meaning shares: the resolve-and-format pass, the forced completion of an error
outcome, the three commands, a row run as one instruction, and index postbytes fed to the session in flight. -/

namespace Sys2Proof.Machine

/-! ## Configuration -/

/-- Whether the block holds the reference parameters, whose rows spec/opcode_table.json lists (R86). -/
def isReference : ParameterSet → Bool
  | .reference => true
  | .custom _ => false

/-! ## The pass (R113) -/

/-- `Resolve(S)`: the profile's resolver on the bytes fetched so far; `none` is a decline (R31, R113). -/
def resolve (p : Profile) (t : Parameters) (raw : RawBytes) (fetched : Nat) : Option (AddressingMode × Nat) :=
  match p with
  | .p6502 => some (resolve6502 t.t6502 raw)
  | .p65C02 => some (resolve6502 t.t65C02 raw)
  | .p6800 => some (resolve6800 t.imm16Opcodes raw)
  | .p6809 | .p6809E => resolve6809 raw fetched
  | .pZ80 => resolveZ80 t.tZ80 raw fetched

/-- `Format(S)`: the profile's formatter (R31, R113). -/
def format (p : Profile) (t : Parameters) (x : Session) : Rendering :=
  match p with
  | .p6502 =>
    format6502 t.absTarget (tableAt t.t6502 (rawAt x.rawBytes 0)) x.addressingMode x.rawBytes x.instructionAddress
      x.bytesRequired
  | .p65C02 =>
    format6502 t.absTarget (tableAt t.t65C02 (rawAt x.rawBytes 0)) x.addressingMode x.rawBytes x.instructionAddress
      x.bytesRequired
  | .p6800 =>
    format6800 t.absTarget (tableAt t.t6800 (rawAt x.rawBytes 0)) x.addressingMode x.rawBytes x.instructionAddress
  | .p6809 | .p6809E =>
    format6809 t (mnemonic6809 t x.rawBytes) x.addressingMode x.rawBytes x.instructionAddress x.bytesRequired
  | .pZ80 => formatZ80 t.absTarget t.tZ80 x.rawBytes x.bytesFetched x.instructionAddress

/-- Completion with a given text. It is all that an error outcome writes beside what the pass wrote, and the nearest
thing the block has to taking an exception; the next `begin` is the only way out (R291, R299, R300). -/
def Session.completeWith (text : Text) (x : Session) : Session := { x with outputString := text, state := .complete }

/-- The target of a rendering, stored by the pass (R28, R113). -/
def Session.withTarget (target : Option TargetAddress) (x : Session) : Session :=
  match target with
  | none => x
  | some v => { x with resolvedTargetAddress := v, resolvedTargetValid := true }

/-- Target, annotation, cut and completion: the end of the pass (R113). -/
def Session.finish (r : Rendering) (x : Session) : Session :=
  let y := x.withTarget r.target
  y.completeWith (annotated r.body y.resolvedTargetValid y.resolvedTargetAddress)

/-- The first half of the pass: mode and length, once the resolver answers; `none` when it declines (R113). -/
def Session.resolved (p : Profile) (t : Parameters) (x : Session) : Option Session :=
  if x.bytesRequired = 0 then
    (resolve p t x.rawBytes x.bytesFetched).map fun r => { x with addressingMode := r.1, bytesRequired := r.2 }
  else some x

/-- What is rendered when the last byte is in: the `Invalid` text, or what the formatter makes of the bytes (R113, R293). -/
def Session.rendering (p : Profile) (t : Parameters) (x : Session) : Rendering :=
  if x.addressingMode = .invalid then plain addrModeText else format p t x

/-- The resolve-and-format pass (R113). -/
def Session.pass (p : Profile) (t : Parameters) (x : Session) : Session :=
  match x.resolved p t with
  | none => x
  | some y => if y.bytesFetched = y.bytesRequired then y.finish (y.rendering p t) else y

/-! ## The three commands -/

/-- The fields `begin` writes before the pass (R110). -/
def Session.started (address : Address) (firstByte : Byte) : Session where
  state := .fetching
  instructionAddress := address
  rawBytes := #v[firstByte, 0, 0, 0, 0, 0, 0, 0]
  bytesFetched := 1
  bytesRequired := 0
  addressingMode := .unset
  resolvedTargetAddress := 0
  resolvedTargetValid := false
  outputString := []

/-- `rawBytes[bytesFetched] <- byte`, then the count (R52, R111). -/
def Session.append (byte : Byte) (x : Session) : Session :=
  { x with rawBytes := x.rawBytes.setIfInBounds x.bytesFetched byte, bytesFetched := x.bytesFetched + 1 }

/-- `continue(byte)` on the session: no change outside `Fetching`, the overflow arm, or append and pass (R111, R294, R298). -/
def Session.feed (p : Profile) (t : Parameters) (byte : Byte) (x : Session) : Session :=
  if x.state ≠ .fetching then x
  else if x.bytesFetched = maxBytes then x.completeWith overflowText
  else (x.append byte).pass p t

/-- The result of `continue`: whether it made a transition out of `Fetching` (R111). -/
def leftFetching (before after : Session) : Bool := before.state == .fetching && after.state == .complete

/-- The result of `complete()` (R112). -/
def Session.read (x : Session) : Text := if x.state = .complete then x.outputString else []

/-- One command (R110 to R112). `begin` in `Fetching` has no successor state (R114). -/
def runCommand (c : Command) (s : State) : Result :=
  match c with
  | .begin address firstByte =>
    if s.session.state = .fetching then .refused .beginWhileFetching
    else .next { s with
      session := (Session.started address firstByte).pass s.profile (parametersOf s.parameters)
      reply := .nothing }
  | .feed byte =>
    let x := s.session.feed s.profile (parametersOf s.parameters) byte
    .next { s with session := x, reply := .transition (leftFetching s.session x) }
  | .complete => .next { s with reply := .text s.session.read }

/-- Commands one after another, each whole before the next (R59); a refusal ends the run. -/
def runCommands : List Command → State → Result
  | [], s => .next s
  | c :: cs, s =>
    match runCommand c s with
    | .next s' => runCommands cs s'
    | .fault e => .fault e
    | .refused r => .refused r

/-! ## Rows -/

/-- The commands that feed a form at an address: `begin` with its first byte, `continue` with each other byte (R117). -/
def formCommands (address : Address) (f : Form) : List Command :=
  match formBytes f with
  | [] => []
  | b :: bs => .begin address b :: bs.map .feed

/-- A form fed to the block command by command. -/
def feedForm (f : Form) (s : State) : Result := runCommands (formCommands s.feedAddress f) s

/-- The bytes of a postbyte row, fed to the session in flight (R187, R190). -/
def feedPostbyte (f : Form) (s : State) : Result := runCommands ((formBytes f).map .feed) s

/-- The raw buffer after a form was fed; the entries above stay zero (R23). -/
def rawOf (bs : List Byte) : RawBytes :=
  #v[bs.getD 0 0, bs.getD 1 0, bs.getD 2 0, bs.getD 3 0, bs.getD 4 0, bs.getD 5 0, bs.getD 6 0, bs.getD 7 0]

/-- A session that holds all the bytes of an instruction and its mode, the formatter not yet run (R110, R111, R113). -/
def Session.fetched (address : Address) (bs : List Byte) (mode : AddressingMode) : Session where
  state := .fetching
  instructionAddress := address
  rawBytes := rawOf bs
  bytesFetched := bs.length
  bytesRequired := bs.length
  addressingMode := mode
  resolvedTargetAddress := 0
  resolvedTargetValid := false
  outputString := []

/-- A session that holds all the bytes of a row. -/
def rowFetched (text : Text) (f : Form) (address : Address) : Session :=
  Session.fetched address (formBytes f) (rowMode text f)

/-- What a row renders: the `Invalid` text, or what its family's formatter makes of the row's text (R113, R293). -/
def rowOutput (text : Text) (f : Form) (address : Address) : Rendering :=
  if rowMode text f = .invalid then plain addrModeText
  else rowRendering text f (rawOf (formBytes f)) address (formBytes f).length

/-- The session once a row has been fed whole. -/
def rowSession (text : Text) (f : Form) (address : Address) : Session :=
  (rowFetched text f address).finish (rowOutput text f address)

/-- The result of the command that fed the last byte of a row: nothing from `begin`, true from `continue` (R70, R111). -/
def rowReply (f : Form) : Reply := if (formBytes f).length = 1 then .nothing else .transition true

/-- Whether this block reads a form as a row of spec/opcode_table.json. -/
def rowServed (f : Form) (s : State) : Bool :=
  isReference s.parameters && profileReads s.profile f.lead && formFits f

/-- A row run as one instruction, from the row's own text. Its first command is a `begin`, so `Fetching` refuses it
(R114). Where the block has another profile or other tables, no row text applies, and the bytes are fed as they are
(DESIGN CHOICE, log entry 7; safe). -/
def runRow (text : Text) (f : Form) (s : State) : Result :=
  if s.session.state = .fetching then .refused .beginWhileFetching
  else if rowServed f s then
    .next { s with session := rowSession text f s.feedAddress, reply := rowReply f }
  else feedForm f s

end Sys2Proof.Machine
end

