-- ==== Sys2Proof/Machine/ExecCommands.lean ====
section
/-! DEFINITION. The meanings of the three commands (R110 to R112). -/

namespace Sys2Proof.Machine

/-- `begin(address, firstByte)` (R110, R114). -/
def execCmdBegin (address : Address) (firstByte : Byte) (s : State) : Result :=
  runCommand (.begin address firstByte) s

/-- `continue(byte)` (R111). -/
def execCmdContinue (byte : Byte) (s : State) : Result := runCommand (.feed byte) s

/-- `complete()` (R112). -/
def execCmdComplete (s : State) : Result := runCommand .complete s

end Sys2Proof.Machine
end

