-- ==== Sys2Proof/Machine/ExecM6800.lean ====
section
/-! DEFINITION. The meanings of the 6800 rows, and of the rows whose mnemonic the 6809 or the Z80 shares with them (R164 to R168). -/

namespace Sys2Proof.Machine

/-- Row `TAP` (R164). -/
def execTap (f : Form) (s : State) : Result := runRow (ascii "TAP") f s

/-- Row `TPA` (R164). -/
def execTpa (f : Form) (s : State) : Result := runRow (ascii "TPA") f s

/-- Row `SEV` (R164). -/
def execSev (f : Form) (s : State) : Result := runRow (ascii "SEV") f s

/-- Row `SBA` (R164). -/
def execSba (f : Form) (s : State) : Result := runRow (ascii "SBA") f s

/-- Row `CBA` (R164). -/
def execCba (f : Form) (s : State) : Result := runRow (ascii "CBA") f s

/-- Row `TAB` (R164). -/
def execTab (f : Form) (s : State) : Result := runRow (ascii "TAB") f s

/-- Row `TBA` (R164). -/
def execTba (f : Form) (s : State) : Result := runRow (ascii "TBA") f s

/-- Row `DAA` (R164, R211, R243, R247). -/
def execDaa (f : Form) (s : State) : Result := runRow (ascii "DAA") f s

/-- Row `ABA` (R164). -/
def execAba (f : Form) (s : State) : Result := runRow (ascii "ABA") f s

/-- Row `BRA` (R165, R216). -/
def execBra (f : Form) (s : State) : Result := runRow (ascii "BRA") f s

/-- Row `BHI` (R165, R216). -/
def execBhi (f : Form) (s : State) : Result := runRow (ascii "BHI") f s

/-- Row `BLS` (R165, R216). -/
def execBls (f : Form) (s : State) : Result := runRow (ascii "BLS") f s

/-- Row `BCC` (R165, R216). -/
def execBcc (f : Form) (s : State) : Result := runRow (ascii "BCC") f s

/-- Row `BCS` (R165, R216). -/
def execBcs (f : Form) (s : State) : Result := runRow (ascii "BCS") f s

/-- Row `BNE` (R165, R216). -/
def execBne (f : Form) (s : State) : Result := runRow (ascii "BNE") f s

/-- Row `BEQ` (R165, R216). -/
def execBeq (f : Form) (s : State) : Result := runRow (ascii "BEQ") f s

/-- Row `BVC` (R165, R216). -/
def execBvc (f : Form) (s : State) : Result := runRow (ascii "BVC") f s

/-- Row `BVS` (R165, R216). -/
def execBvs (f : Form) (s : State) : Result := runRow (ascii "BVS") f s

/-- Row `BPL` (R165, R216). -/
def execBpl (f : Form) (s : State) : Result := runRow (ascii "BPL") f s

/-- Row `BMI` (R165, R216). -/
def execBmi (f : Form) (s : State) : Result := runRow (ascii "BMI") f s

/-- Row `BGE` (R165, R216). -/
def execBge (f : Form) (s : State) : Result := runRow (ascii "BGE") f s

/-- Row `BLT` (R165, R216). -/
def execBlt (f : Form) (s : State) : Result := runRow (ascii "BLT") f s

/-- Row `BGT` (R165, R216). -/
def execBgt (f : Form) (s : State) : Result := runRow (ascii "BGT") f s

/-- Row `BLE` (R165, R216). -/
def execBle (f : Form) (s : State) : Result := runRow (ascii "BLE") f s

/-- Row `INS` (R164). -/
def execIns (f : Form) (s : State) : Result := runRow (ascii "INS") f s

/-- Row `PULA` (R164). -/
def execPula (f : Form) (s : State) : Result := runRow (ascii "PULA") f s

/-- Row `PULB` (R164). -/
def execPulb (f : Form) (s : State) : Result := runRow (ascii "PULB") f s

/-- Row `DES` (R164). -/
def execDes (f : Form) (s : State) : Result := runRow (ascii "DES") f s

/-- Row `PSHA` (R164). -/
def execPsha (f : Form) (s : State) : Result := runRow (ascii "PSHA") f s

/-- Row `PSHB` (R164). -/
def execPshb (f : Form) (s : State) : Result := runRow (ascii "PSHB") f s

/-- Row `WAI` (R164). -/
def execWai (f : Form) (s : State) : Result := runRow (ascii "WAI") f s

/-- Row `SWI` (R164, R211). -/
def execSwi (f : Form) (s : State) : Result := runRow (ascii "SWI") f s

/-- Row `NEGA` (R164, R211). -/
def execNega (f : Form) (s : State) : Result := runRow (ascii "NEGA") f s

/-- Row `COMA` (R164, R211). -/
def execComa (f : Form) (s : State) : Result := runRow (ascii "COMA") f s

/-- Row `LSRA` (R164, R211). -/
def execLsra (f : Form) (s : State) : Result := runRow (ascii "LSRA") f s

/-- Row `RORA` (R164, R211). -/
def execRora (f : Form) (s : State) : Result := runRow (ascii "RORA") f s

/-- Row `ASRA` (R164, R211). -/
def execAsra (f : Form) (s : State) : Result := runRow (ascii "ASRA") f s

/-- Row `ASLA` (R164, R211). -/
def execAsla (f : Form) (s : State) : Result := runRow (ascii "ASLA") f s

/-- Row `ROLA` (R164, R211). -/
def execRola (f : Form) (s : State) : Result := runRow (ascii "ROLA") f s

/-- Row `DECA` (R164, R211). -/
def execDeca (f : Form) (s : State) : Result := runRow (ascii "DECA") f s

/-- Row `INCA` (R164, R211). -/
def execInca (f : Form) (s : State) : Result := runRow (ascii "INCA") f s

/-- Row `TSTA` (R164, R211). -/
def execTsta (f : Form) (s : State) : Result := runRow (ascii "TSTA") f s

/-- Row `CLRA` (R164, R211). -/
def execClra (f : Form) (s : State) : Result := runRow (ascii "CLRA") f s

/-- Row `NEGB` (R164, R211). -/
def execNegb (f : Form) (s : State) : Result := runRow (ascii "NEGB") f s

/-- Row `COMB` (R164, R211). -/
def execComb (f : Form) (s : State) : Result := runRow (ascii "COMB") f s

/-- Row `LSRB` (R164, R211). -/
def execLsrb (f : Form) (s : State) : Result := runRow (ascii "LSRB") f s

/-- Row `RORB` (R164, R211). -/
def execRorb (f : Form) (s : State) : Result := runRow (ascii "RORB") f s

/-- Row `ASRB` (R164, R211). -/
def execAsrb (f : Form) (s : State) : Result := runRow (ascii "ASRB") f s

/-- Row `ASLB` (R164, R211). -/
def execAslb (f : Form) (s : State) : Result := runRow (ascii "ASLB") f s

/-- Row `ROLB` (R164, R211). -/
def execRolb (f : Form) (s : State) : Result := runRow (ascii "ROLB") f s

/-- Row `DECB` (R164, R211). -/
def execDecb (f : Form) (s : State) : Result := runRow (ascii "DECB") f s

/-- Row `INCB` (R164, R211). -/
def execIncb (f : Form) (s : State) : Result := runRow (ascii "INCB") f s

/-- Row `TSTB` (R164, R211). -/
def execTstb (f : Form) (s : State) : Result := runRow (ascii "TSTB") f s

/-- Row `CLRB` (R164, R211). -/
def execClrb (f : Form) (s : State) : Result := runRow (ascii "CLRB") f s

/-- Row `NEG` (R166, R167, R210, R212, R213, R245). -/
def execNeg (f : Form) (s : State) : Result := runRow (ascii "NEG") f s

/-- Row `COM` (R166, R167, R210, R212, R213). -/
def execCom (f : Form) (s : State) : Result := runRow (ascii "COM") f s

/-- Row `LSR` (R166, R167, R210, R212, R213). -/
def execLsr (f : Form) (s : State) : Result := runRow (ascii "LSR") f s

/-- Row `ROR` (R166, R167, R210, R212, R213). -/
def execRor (f : Form) (s : State) : Result := runRow (ascii "ROR") f s

/-- Row `ASR` (R166, R167, R210, R212, R213). -/
def execAsr (f : Form) (s : State) : Result := runRow (ascii "ASR") f s

/-- Row `ASL` (R166, R167, R210, R212, R213). -/
def execAsl (f : Form) (s : State) : Result := runRow (ascii "ASL") f s

/-- Row `ROL` (R166, R167, R210, R212, R213). -/
def execRol (f : Form) (s : State) : Result := runRow (ascii "ROL") f s

/-- Row `DEC` (R166, R167, R210, R212, R213). -/
def execDec (f : Form) (s : State) : Result := runRow (ascii "DEC") f s

/-- Row `INC` (R166, R167, R210, R212, R213). -/
def execInc (f : Form) (s : State) : Result := runRow (ascii "INC") f s

/-- Row `TST` (R166, R167, R210, R212, R213). -/
def execTst (f : Form) (s : State) : Result := runRow (ascii "TST") f s

/-- Row `JMP` (R166, R167, R210, R212, R213). -/
def execJmp (f : Form) (s : State) : Result := runRow (ascii "JMP") f s

/-- Row `CLR` (R166, R167, R210, R212, R213). -/
def execClr (f : Form) (s : State) : Result := runRow (ascii "CLR") f s

/-- Row `SUBA` (R166, R167, R168, R210, R212, R213, R214). -/
def execSuba (f : Form) (s : State) : Result := runRow (ascii "SUBA") f s

/-- Row `CMPA` (R166, R167, R168, R210, R212, R213, R214). -/
def execCmpa (f : Form) (s : State) : Result := runRow (ascii "CMPA") f s

/-- Row `SBCA` (R166, R167, R168, R210, R212, R213, R214). -/
def execSbca (f : Form) (s : State) : Result := runRow (ascii "SBCA") f s

/-- Row `ANDA` (R166, R167, R168, R210, R212, R213, R214). -/
def execAnda (f : Form) (s : State) : Result := runRow (ascii "ANDA") f s

/-- Row `BITA` (R166, R167, R168, R210, R212, R213, R214). -/
def execBita (f : Form) (s : State) : Result := runRow (ascii "BITA") f s

/-- Row `LDAA` (R166, R167, R168). -/
def execLdaa (f : Form) (s : State) : Result := runRow (ascii "LDAA") f s

/-- Row `EORA` (R166, R167, R168, R210, R212, R213, R214). -/
def execEora (f : Form) (s : State) : Result := runRow (ascii "EORA") f s

/-- Row `ADCA` (R166, R167, R168, R210, R212, R213, R214). -/
def execAdca (f : Form) (s : State) : Result := runRow (ascii "ADCA") f s

/-- Row `ORAA` (R166, R167, R168). -/
def execOraa (f : Form) (s : State) : Result := runRow (ascii "ORAA") f s

/-- Row `ADDA` (R166, R167, R168, R210, R212, R213, R214). -/
def execAdda (f : Form) (s : State) : Result := runRow (ascii "ADDA") f s

/-- Row `CPX` (R166, R167, R168). -/
def execCpx (f : Form) (s : State) : Result := runRow (ascii "CPX") f s

/-- Row `BSR` (R165, R216). -/
def execBsr (f : Form) (s : State) : Result := runRow (ascii "BSR") f s

/-- Row `LDS` (R166, R167, R168, R210, R212, R213, R215). -/
def execLds (f : Form) (s : State) : Result := runRow (ascii "LDS") f s

/-- Row `STAA` (R166, R167). -/
def execStaa (f : Form) (s : State) : Result := runRow (ascii "STAA") f s

/-- Row `STS` (R166, R167, R210, R212, R213). -/
def execSts (f : Form) (s : State) : Result := runRow (ascii "STS") f s

/-- Row `JSR` (R166, R167, R210, R212, R213). -/
def execJsr (f : Form) (s : State) : Result := runRow (ascii "JSR") f s

/-- Row `SUBB` (R166, R167, R168, R210, R212, R213, R214). -/
def execSubb (f : Form) (s : State) : Result := runRow (ascii "SUBB") f s

/-- Row `CMPB` (R166, R167, R168, R210, R212, R213, R214). -/
def execCmpb (f : Form) (s : State) : Result := runRow (ascii "CMPB") f s

/-- Row `SBCB` (R166, R167, R168, R210, R212, R213, R214). -/
def execSbcb (f : Form) (s : State) : Result := runRow (ascii "SBCB") f s

/-- Row `ANDB` (R166, R167, R168, R210, R212, R213, R214). -/
def execAndb (f : Form) (s : State) : Result := runRow (ascii "ANDB") f s

/-- Row `BITB` (R166, R167, R168, R210, R212, R213, R214). -/
def execBitb (f : Form) (s : State) : Result := runRow (ascii "BITB") f s

/-- Row `LDAB` (R166, R167, R168). -/
def execLdab (f : Form) (s : State) : Result := runRow (ascii "LDAB") f s

/-- Row `EORB` (R166, R167, R168, R210, R212, R213, R214). -/
def execEorb (f : Form) (s : State) : Result := runRow (ascii "EORB") f s

/-- Row `ADCB` (R166, R167, R168, R210, R212, R213, R214). -/
def execAdcb (f : Form) (s : State) : Result := runRow (ascii "ADCB") f s

/-- Row `ORAB` (R166, R167, R168). -/
def execOrab (f : Form) (s : State) : Result := runRow (ascii "ORAB") f s

/-- Row `ADDB` (R166, R167, R168, R210, R212, R213, R214). -/
def execAddb (f : Form) (s : State) : Result := runRow (ascii "ADDB") f s

/-- Row `LDX` (R166, R167, R168, R210, R212, R213, R215). -/
def execLdx (f : Form) (s : State) : Result := runRow (ascii "LDX") f s

/-- Row `STAB` (R166, R167). -/
def execStab (f : Form) (s : State) : Result := runRow (ascii "STAB") f s

/-- Row `STX` (R166, R167, R210, R212, R213). -/
def execStx (f : Form) (s : State) : Result := runRow (ascii "STX") f s

end Sys2Proof.Machine
end

