-- ==== Sys2Proof/Machine/ExecM6809.lean ====
section
/-! DEFINITION. The meanings of the 6809 rows whose mnemonic no earlier family has (R210 to R228). -/

namespace Sys2Proof.Machine

/-- Row `LBRN` (R217). -/
def execLbrn (f : Form) (s : State) : Result := runRow (ascii "LBRN") f s

/-- Row `LBHI` (R217). -/
def execLbhi (f : Form) (s : State) : Result := runRow (ascii "LBHI") f s

/-- Row `LBLS` (R217). -/
def execLbls (f : Form) (s : State) : Result := runRow (ascii "LBLS") f s

/-- Row `LBCC` (R217). -/
def execLbcc (f : Form) (s : State) : Result := runRow (ascii "LBCC") f s

/-- Row `LBCS` (R217). -/
def execLbcs (f : Form) (s : State) : Result := runRow (ascii "LBCS") f s

/-- Row `LBNE` (R217). -/
def execLbne (f : Form) (s : State) : Result := runRow (ascii "LBNE") f s

/-- Row `LBEQ` (R217). -/
def execLbeq (f : Form) (s : State) : Result := runRow (ascii "LBEQ") f s

/-- Row `LBVC` (R217). -/
def execLbvc (f : Form) (s : State) : Result := runRow (ascii "LBVC") f s

/-- Row `LBVS` (R217). -/
def execLbvs (f : Form) (s : State) : Result := runRow (ascii "LBVS") f s

/-- Row `LBPL` (R217). -/
def execLbpl (f : Form) (s : State) : Result := runRow (ascii "LBPL") f s

/-- Row `LBMI` (R217). -/
def execLbmi (f : Form) (s : State) : Result := runRow (ascii "LBMI") f s

/-- Row `LBGE` (R217). -/
def execLbge (f : Form) (s : State) : Result := runRow (ascii "LBGE") f s

/-- Row `LBLT` (R217). -/
def execLblt (f : Form) (s : State) : Result := runRow (ascii "LBLT") f s

/-- Row `LBGT` (R217). -/
def execLbgt (f : Form) (s : State) : Result := runRow (ascii "LBGT") f s

/-- Row `LBLE` (R217). -/
def execLble (f : Form) (s : State) : Result := runRow (ascii "LBLE") f s

/-- Row `SWI2` (R211). -/
def execSwi2 (f : Form) (s : State) : Result := runRow (ascii "SWI2") f s

/-- Row `CMPD` (R210, R212, R213, R215). -/
def execCmpd (f : Form) (s : State) : Result := runRow (ascii "CMPD") f s

/-- Row `CMPY` (R210, R212, R213, R215). -/
def execCmpy (f : Form) (s : State) : Result := runRow (ascii "CMPY") f s

/-- Row `LDY` (R210, R212, R213, R215). -/
def execLdy (f : Form) (s : State) : Result := runRow (ascii "LDY") f s

/-- Row `STY` (R210, R212, R213). -/
def execSty (f : Form) (s : State) : Result := runRow (ascii "STY") f s

/-- Row `SWI3` (R211). -/
def execSwi3 (f : Form) (s : State) : Result := runRow (ascii "SWI3") f s

/-- Row `CMPU` (R210, R212, R213, R215). -/
def execCmpu (f : Form) (s : State) : Result := runRow (ascii "CMPU") f s

/-- Row `CMPS` (R210, R212, R213, R215). -/
def execCmps (f : Form) (s : State) : Result := runRow (ascii "CMPS") f s

/-- Row `SYNC` (R211). -/
def execSync (f : Form) (s : State) : Result := runRow (ascii "SYNC") f s

/-- Row `LBRA` (R217). -/
def execLbra (f : Form) (s : State) : Result := runRow (ascii "LBRA") f s

/-- Row `LBSR` (R217). -/
def execLbsr (f : Form) (s : State) : Result := runRow (ascii "LBSR") f s

/-- Row `ORCC` (R214). -/
def execOrcc (f : Form) (s : State) : Result := runRow (ascii "ORCC") f s

/-- Row `ANDCC` (R214). -/
def execAndcc (f : Form) (s : State) : Result := runRow (ascii "ANDCC") f s

/-- Row `SEX` (R211). -/
def execSex (f : Form) (s : State) : Result := runRow (ascii "SEX") f s

/-- Row `EXG` (R218). -/
def execExg (f : Form) (s : State) : Result := runRow (ascii "EXG") f s

/-- Row `TFR` (R218). -/
def execTfr (f : Form) (s : State) : Result := runRow (ascii "TFR") f s

/-- Row `BRN` (R216). -/
def execBrn (f : Form) (s : State) : Result := runRow (ascii "BRN") f s

/-- Row `LEAX` (R210). -/
def execLeax (f : Form) (s : State) : Result := runRow (ascii "LEAX") f s

/-- Row `LEAY` (R210). -/
def execLeay (f : Form) (s : State) : Result := runRow (ascii "LEAY") f s

/-- Row `LEAS` (R210). -/
def execLeas (f : Form) (s : State) : Result := runRow (ascii "LEAS") f s

/-- Row `LEAU` (R210). -/
def execLeau (f : Form) (s : State) : Result := runRow (ascii "LEAU") f s

/-- Row `PSHS` (R219). -/
def execPshs (f : Form) (s : State) : Result := runRow (ascii "PSHS") f s

/-- Row `PULS` (R219). -/
def execPuls (f : Form) (s : State) : Result := runRow (ascii "PULS") f s

/-- Row `PSHU` (R219). -/
def execPshu (f : Form) (s : State) : Result := runRow (ascii "PSHU") f s

/-- Row `PULU` (R219). -/
def execPulu (f : Form) (s : State) : Result := runRow (ascii "PULU") f s

/-- Row `ABX` (R211). -/
def execAbx (f : Form) (s : State) : Result := runRow (ascii "ABX") f s

/-- Row `CWAI` (R214). -/
def execCwai (f : Form) (s : State) : Result := runRow (ascii "CWAI") f s

/-- Row `MUL` (R211). -/
def execMul (f : Form) (s : State) : Result := runRow (ascii "MUL") f s

/-- Row `SUBD` (R210, R212, R213, R215). -/
def execSubd (f : Form) (s : State) : Result := runRow (ascii "SUBD") f s

/-- Row `LDA` (R210, R212, R213, R214). -/
def execLda (f : Form) (s : State) : Result := runRow (ascii "LDA") f s

/-- Row `ORA` (R210, R212, R213, R214). -/
def execOra (f : Form) (s : State) : Result := runRow (ascii "ORA") f s

/-- Row `CMPX` (R210, R212, R213, R215). -/
def execCmpx (f : Form) (s : State) : Result := runRow (ascii "CMPX") f s

/-- Row `STA` (R210, R212, R213). -/
def execSta (f : Form) (s : State) : Result := runRow (ascii "STA") f s

/-- Row `ADDD` (R210, R212, R213, R215). -/
def execAddd (f : Form) (s : State) : Result := runRow (ascii "ADDD") f s

/-- Row `LDB` (R210, R212, R213, R214). -/
def execLdb (f : Form) (s : State) : Result := runRow (ascii "LDB") f s

/-- Row `ORB` (R210, R212, R213, R214). -/
def execOrb (f : Form) (s : State) : Result := runRow (ascii "ORB") f s

/-- Row `LDD` (R210, R212, R213, R215, R245). -/
def execLdd (f : Form) (s : State) : Result := runRow (ascii "LDD") f s

/-- Row `LDU` (R210, R212, R213, R215). -/
def execLdu (f : Form) (s : State) : Result := runRow (ascii "LDU") f s

/-- Row `STB` (R210, R212, R213). -/
def execStb (f : Form) (s : State) : Result := runRow (ascii "STB") f s

/-- Row `STD` (R210, R212, R213). -/
def execStd (f : Form) (s : State) : Result := runRow (ascii "STD") f s

/-- Row `STU` (R210, R212, R213). -/
def execStu (f : Form) (s : State) : Result := runRow (ascii "STU") f s

end Sys2Proof.Machine
end

