-- ==== Sys2Proof/Machine/ExecMos6502.lean ====
section
/-! DEFINITION. The meanings of the 6502 and 65C02 rows, and of the rows whose mnemonic another family shares with them (R143 to R146). -/

namespace Sys2Proof.Machine

/-- Row `BRK` (R143). -/
def execBrk (f : Form) (s : State) : Result := runRow (ascii "BRK") f s

/-- Row `ORA ($nn,X)` (R144). -/
def execOraIndX (f : Form) (s : State) : Result := runRow (ascii "ORA ($nn,X)") f s

/-- Row `ORA $nn` (R144). -/
def execOraZp (f : Form) (s : State) : Result := runRow (ascii "ORA $nn") f s

/-- Row `ASL $nn` (R144). -/
def execAslZp (f : Form) (s : State) : Result := runRow (ascii "ASL $nn") f s

/-- Row `PHP` (R143). -/
def execPhp (f : Form) (s : State) : Result := runRow (ascii "PHP") f s

/-- Row `ORA #$nn` (R144). -/
def execOraImm (f : Form) (s : State) : Result := runRow (ascii "ORA #$nn") f s

/-- Row `ASL A` (R143). -/
def execAslAcc (f : Form) (s : State) : Result := runRow (ascii "ASL A") f s

/-- Row `ORA $nnnn` (R145). -/
def execOraAbs (f : Form) (s : State) : Result := runRow (ascii "ORA $nnnn") f s

/-- Row `ASL $nnnn` (R145). -/
def execAslAbs (f : Form) (s : State) : Result := runRow (ascii "ASL $nnnn") f s

/-- Row `BPL rrrr` (R146). -/
def execBplRel (f : Form) (s : State) : Result := runRow (ascii "BPL rrrr") f s

/-- Row `ORA ($nn),Y` (R144). -/
def execOraIndY (f : Form) (s : State) : Result := runRow (ascii "ORA ($nn),Y") f s

/-- Row `ORA $nn,X` (R144). -/
def execOraZpX (f : Form) (s : State) : Result := runRow (ascii "ORA $nn,X") f s

/-- Row `ASL $nn,X` (R144). -/
def execAslZpX (f : Form) (s : State) : Result := runRow (ascii "ASL $nn,X") f s

/-- Row `CLC` (R143, R164). -/
def execClc (f : Form) (s : State) : Result := runRow (ascii "CLC") f s

/-- Row `ORA $nnnn,Y` (R145). -/
def execOraAbsY (f : Form) (s : State) : Result := runRow (ascii "ORA $nnnn,Y") f s

/-- Row `ORA $nnnn,X` (R145). -/
def execOraAbsX (f : Form) (s : State) : Result := runRow (ascii "ORA $nnnn,X") f s

/-- Row `ASL $nnnn,X` (R145). -/
def execAslAbsX (f : Form) (s : State) : Result := runRow (ascii "ASL $nnnn,X") f s

/-- Row `JSR $nnnn` (R145). -/
def execJsrAbs (f : Form) (s : State) : Result := runRow (ascii "JSR $nnnn") f s

/-- Row `AND ($nn,X)` (R144). -/
def execAndIndX (f : Form) (s : State) : Result := runRow (ascii "AND ($nn,X)") f s

/-- Row `BIT $nn` (R144). -/
def execBitZp (f : Form) (s : State) : Result := runRow (ascii "BIT $nn") f s

/-- Row `AND $nn` (R144). -/
def execAndZp (f : Form) (s : State) : Result := runRow (ascii "AND $nn") f s

/-- Row `ROL $nn` (R144). -/
def execRolZp (f : Form) (s : State) : Result := runRow (ascii "ROL $nn") f s

/-- Row `PLP` (R143). -/
def execPlp (f : Form) (s : State) : Result := runRow (ascii "PLP") f s

/-- Row `AND #$nn` (R144). -/
def execAndImm (f : Form) (s : State) : Result := runRow (ascii "AND #$nn") f s

/-- Row `ROL A` (R143). -/
def execRolAcc (f : Form) (s : State) : Result := runRow (ascii "ROL A") f s

/-- Row `BIT $nnnn` (R145). -/
def execBitAbs (f : Form) (s : State) : Result := runRow (ascii "BIT $nnnn") f s

/-- Row `AND $nnnn` (R145). -/
def execAndAbs (f : Form) (s : State) : Result := runRow (ascii "AND $nnnn") f s

/-- Row `ROL $nnnn` (R145). -/
def execRolAbs (f : Form) (s : State) : Result := runRow (ascii "ROL $nnnn") f s

/-- Row `BMI rrrr` (R146). -/
def execBmiRel (f : Form) (s : State) : Result := runRow (ascii "BMI rrrr") f s

/-- Row `AND ($nn),Y` (R144). -/
def execAndIndY (f : Form) (s : State) : Result := runRow (ascii "AND ($nn),Y") f s

/-- Row `AND $nn,X` (R144). -/
def execAndZpX (f : Form) (s : State) : Result := runRow (ascii "AND $nn,X") f s

/-- Row `ROL $nn,X` (R144). -/
def execRolZpX (f : Form) (s : State) : Result := runRow (ascii "ROL $nn,X") f s

/-- Row `SEC` (R143, R164). -/
def execSec (f : Form) (s : State) : Result := runRow (ascii "SEC") f s

/-- Row `AND $nnnn,Y` (R145). -/
def execAndAbsY (f : Form) (s : State) : Result := runRow (ascii "AND $nnnn,Y") f s

/-- Row `AND $nnnn,X` (R145). -/
def execAndAbsX (f : Form) (s : State) : Result := runRow (ascii "AND $nnnn,X") f s

/-- Row `ROL $nnnn,X` (R145). -/
def execRolAbsX (f : Form) (s : State) : Result := runRow (ascii "ROL $nnnn,X") f s

/-- Row `RTI` (R143, R164, R211). -/
def execRti (f : Form) (s : State) : Result := runRow (ascii "RTI") f s

/-- Row `EOR ($nn,X)` (R144). -/
def execEorIndX (f : Form) (s : State) : Result := runRow (ascii "EOR ($nn,X)") f s

/-- Row `EOR $nn` (R144). -/
def execEorZp (f : Form) (s : State) : Result := runRow (ascii "EOR $nn") f s

/-- Row `LSR $nn` (R144). -/
def execLsrZp (f : Form) (s : State) : Result := runRow (ascii "LSR $nn") f s

/-- Row `PHA` (R143). -/
def execPha (f : Form) (s : State) : Result := runRow (ascii "PHA") f s

/-- Row `EOR #$nn` (R144). -/
def execEorImm (f : Form) (s : State) : Result := runRow (ascii "EOR #$nn") f s

/-- Row `LSR A` (R143). -/
def execLsrAcc (f : Form) (s : State) : Result := runRow (ascii "LSR A") f s

/-- Row `JMP $nnnn` (R145). -/
def execJmpAbs (f : Form) (s : State) : Result := runRow (ascii "JMP $nnnn") f s

/-- Row `EOR $nnnn` (R145). -/
def execEorAbs (f : Form) (s : State) : Result := runRow (ascii "EOR $nnnn") f s

/-- Row `LSR $nnnn` (R145). -/
def execLsrAbs (f : Form) (s : State) : Result := runRow (ascii "LSR $nnnn") f s

/-- Row `BVC rrrr` (R146). -/
def execBvcRel (f : Form) (s : State) : Result := runRow (ascii "BVC rrrr") f s

/-- Row `EOR ($nn),Y` (R144). -/
def execEorIndY (f : Form) (s : State) : Result := runRow (ascii "EOR ($nn),Y") f s

/-- Row `EOR $nn,X` (R144). -/
def execEorZpX (f : Form) (s : State) : Result := runRow (ascii "EOR $nn,X") f s

/-- Row `LSR $nn,X` (R144). -/
def execLsrZpX (f : Form) (s : State) : Result := runRow (ascii "LSR $nn,X") f s

/-- Row `CLI` (R143, R164). -/
def execCli (f : Form) (s : State) : Result := runRow (ascii "CLI") f s

/-- Row `EOR $nnnn,Y` (R145). -/
def execEorAbsY (f : Form) (s : State) : Result := runRow (ascii "EOR $nnnn,Y") f s

/-- Row `EOR $nnnn,X` (R145). -/
def execEorAbsX (f : Form) (s : State) : Result := runRow (ascii "EOR $nnnn,X") f s

/-- Row `LSR $nnnn,X` (R145). -/
def execLsrAbsX (f : Form) (s : State) : Result := runRow (ascii "LSR $nnnn,X") f s

/-- Row `RTS` (R143, R164, R211). -/
def execRts (f : Form) (s : State) : Result := runRow (ascii "RTS") f s

/-- Row `ADC ($nn,X)` (R144). -/
def execAdcIndX (f : Form) (s : State) : Result := runRow (ascii "ADC ($nn,X)") f s

/-- Row `ADC $nn` (R144). -/
def execAdcZp (f : Form) (s : State) : Result := runRow (ascii "ADC $nn") f s

/-- Row `ROR $nn` (R144). -/
def execRorZp (f : Form) (s : State) : Result := runRow (ascii "ROR $nn") f s

/-- Row `PLA` (R143). -/
def execPla (f : Form) (s : State) : Result := runRow (ascii "PLA") f s

/-- Row `ADC #$nn` (R144). -/
def execAdcImm (f : Form) (s : State) : Result := runRow (ascii "ADC #$nn") f s

/-- Row `ROR A` (R143). -/
def execRorAcc (f : Form) (s : State) : Result := runRow (ascii "ROR A") f s

/-- Row `JMP ($nnnn)` (R145). -/
def execJmpInd (f : Form) (s : State) : Result := runRow (ascii "JMP ($nnnn)") f s

/-- Row `ADC $nnnn` (R145). -/
def execAdcAbs (f : Form) (s : State) : Result := runRow (ascii "ADC $nnnn") f s

/-- Row `ROR $nnnn` (R145). -/
def execRorAbs (f : Form) (s : State) : Result := runRow (ascii "ROR $nnnn") f s

/-- Row `BVS rrrr` (R146). -/
def execBvsRel (f : Form) (s : State) : Result := runRow (ascii "BVS rrrr") f s

/-- Row `ADC ($nn),Y` (R144). -/
def execAdcIndY (f : Form) (s : State) : Result := runRow (ascii "ADC ($nn),Y") f s

/-- Row `ADC $nn,X` (R144). -/
def execAdcZpX (f : Form) (s : State) : Result := runRow (ascii "ADC $nn,X") f s

/-- Row `ROR $nn,X` (R144). -/
def execRorZpX (f : Form) (s : State) : Result := runRow (ascii "ROR $nn,X") f s

/-- Row `SEI` (R143, R164). -/
def execSei (f : Form) (s : State) : Result := runRow (ascii "SEI") f s

/-- Row `ADC $nnnn,Y` (R145). -/
def execAdcAbsY (f : Form) (s : State) : Result := runRow (ascii "ADC $nnnn,Y") f s

/-- Row `ADC $nnnn,X` (R145). -/
def execAdcAbsX (f : Form) (s : State) : Result := runRow (ascii "ADC $nnnn,X") f s

/-- Row `ROR $nnnn,X` (R145). -/
def execRorAbsX (f : Form) (s : State) : Result := runRow (ascii "ROR $nnnn,X") f s

/-- Row `STA ($nn,X)` (R144). -/
def execStaIndX (f : Form) (s : State) : Result := runRow (ascii "STA ($nn,X)") f s

/-- Row `STY $nn` (R144). -/
def execStyZp (f : Form) (s : State) : Result := runRow (ascii "STY $nn") f s

/-- Row `STA $nn` (R144). -/
def execStaZp (f : Form) (s : State) : Result := runRow (ascii "STA $nn") f s

/-- Row `STX $nn` (R144). -/
def execStxZp (f : Form) (s : State) : Result := runRow (ascii "STX $nn") f s

/-- Row `DEY` (R143). -/
def execDey (f : Form) (s : State) : Result := runRow (ascii "DEY") f s

/-- Row `TXA` (R143). -/
def execTxa (f : Form) (s : State) : Result := runRow (ascii "TXA") f s

/-- Row `STY $nnnn` (R145). -/
def execStyAbs (f : Form) (s : State) : Result := runRow (ascii "STY $nnnn") f s

/-- Row `STA $nnnn` (R145). -/
def execStaAbs (f : Form) (s : State) : Result := runRow (ascii "STA $nnnn") f s

/-- Row `STX $nnnn` (R145). -/
def execStxAbs (f : Form) (s : State) : Result := runRow (ascii "STX $nnnn") f s

/-- Row `BCC rrrr` (R146). -/
def execBccRel (f : Form) (s : State) : Result := runRow (ascii "BCC rrrr") f s

/-- Row `STA ($nn),Y` (R144). -/
def execStaIndY (f : Form) (s : State) : Result := runRow (ascii "STA ($nn),Y") f s

/-- Row `STY $nn,X` (R144). -/
def execStyZpX (f : Form) (s : State) : Result := runRow (ascii "STY $nn,X") f s

/-- Row `STA $nn,X` (R144). -/
def execStaZpX (f : Form) (s : State) : Result := runRow (ascii "STA $nn,X") f s

/-- Row `STX $nn,Y` (R144). -/
def execStxZpY (f : Form) (s : State) : Result := runRow (ascii "STX $nn,Y") f s

/-- Row `TYA` (R143). -/
def execTya (f : Form) (s : State) : Result := runRow (ascii "TYA") f s

/-- Row `STA $nnnn,Y` (R145). -/
def execStaAbsY (f : Form) (s : State) : Result := runRow (ascii "STA $nnnn,Y") f s

/-- Row `TXS` (R143, R164). -/
def execTxs (f : Form) (s : State) : Result := runRow (ascii "TXS") f s

/-- Row `STA $nnnn,X` (R145). -/
def execStaAbsX (f : Form) (s : State) : Result := runRow (ascii "STA $nnnn,X") f s

/-- Row `LDY #$nn` (R144). -/
def execLdyImm (f : Form) (s : State) : Result := runRow (ascii "LDY #$nn") f s

/-- Row `LDA ($nn,X)` (R144). -/
def execLdaIndX (f : Form) (s : State) : Result := runRow (ascii "LDA ($nn,X)") f s

/-- Row `LDX #$nn` (R144). -/
def execLdxImm (f : Form) (s : State) : Result := runRow (ascii "LDX #$nn") f s

/-- Row `LDY $nn` (R144). -/
def execLdyZp (f : Form) (s : State) : Result := runRow (ascii "LDY $nn") f s

/-- Row `LDA $nn` (R144). -/
def execLdaZp (f : Form) (s : State) : Result := runRow (ascii "LDA $nn") f s

/-- Row `LDX $nn` (R144). -/
def execLdxZp (f : Form) (s : State) : Result := runRow (ascii "LDX $nn") f s

/-- Row `TAY` (R143). -/
def execTay (f : Form) (s : State) : Result := runRow (ascii "TAY") f s

/-- Row `LDA #$nn` (R144). -/
def execLdaImm (f : Form) (s : State) : Result := runRow (ascii "LDA #$nn") f s

/-- Row `TAX` (R143). -/
def execTax (f : Form) (s : State) : Result := runRow (ascii "TAX") f s

/-- Row `LDY $nnnn` (R145). -/
def execLdyAbs (f : Form) (s : State) : Result := runRow (ascii "LDY $nnnn") f s

/-- Row `LDA $nnnn` (R145). -/
def execLdaAbs (f : Form) (s : State) : Result := runRow (ascii "LDA $nnnn") f s

/-- Row `LDX $nnnn` (R145). -/
def execLdxAbs (f : Form) (s : State) : Result := runRow (ascii "LDX $nnnn") f s

/-- Row `BCS rrrr` (R146). -/
def execBcsRel (f : Form) (s : State) : Result := runRow (ascii "BCS rrrr") f s

/-- Row `LDA ($nn),Y` (R144). -/
def execLdaIndY (f : Form) (s : State) : Result := runRow (ascii "LDA ($nn),Y") f s

/-- Row `LDY $nn,X` (R144). -/
def execLdyZpX (f : Form) (s : State) : Result := runRow (ascii "LDY $nn,X") f s

/-- Row `LDA $nn,X` (R144). -/
def execLdaZpX (f : Form) (s : State) : Result := runRow (ascii "LDA $nn,X") f s

/-- Row `LDX $nn,Y` (R144). -/
def execLdxZpY (f : Form) (s : State) : Result := runRow (ascii "LDX $nn,Y") f s

/-- Row `CLV` (R143, R164). -/
def execClv (f : Form) (s : State) : Result := runRow (ascii "CLV") f s

/-- Row `LDA $nnnn,Y` (R145). -/
def execLdaAbsY (f : Form) (s : State) : Result := runRow (ascii "LDA $nnnn,Y") f s

/-- Row `TSX` (R143, R164). -/
def execTsx (f : Form) (s : State) : Result := runRow (ascii "TSX") f s

/-- Row `LDY $nnnn,X` (R145). -/
def execLdyAbsX (f : Form) (s : State) : Result := runRow (ascii "LDY $nnnn,X") f s

/-- Row `LDA $nnnn,X` (R145). -/
def execLdaAbsX (f : Form) (s : State) : Result := runRow (ascii "LDA $nnnn,X") f s

/-- Row `LDX $nnnn,Y` (R145). -/
def execLdxAbsY (f : Form) (s : State) : Result := runRow (ascii "LDX $nnnn,Y") f s

/-- Row `CPY #$nn` (R144). -/
def execCpyImm (f : Form) (s : State) : Result := runRow (ascii "CPY #$nn") f s

/-- Row `CMP ($nn,X)` (R144). -/
def execCmpIndX (f : Form) (s : State) : Result := runRow (ascii "CMP ($nn,X)") f s

/-- Row `CPY $nn` (R144). -/
def execCpyZp (f : Form) (s : State) : Result := runRow (ascii "CPY $nn") f s

/-- Row `CMP $nn` (R144). -/
def execCmpZp (f : Form) (s : State) : Result := runRow (ascii "CMP $nn") f s

/-- Row `DEC $nn` (R144). -/
def execDecZp (f : Form) (s : State) : Result := runRow (ascii "DEC $nn") f s

/-- Row `INY` (R143). -/
def execIny (f : Form) (s : State) : Result := runRow (ascii "INY") f s

/-- Row `CMP #$nn` (R144). -/
def execCmpImm (f : Form) (s : State) : Result := runRow (ascii "CMP #$nn") f s

/-- Row `DEX` (R143, R164). -/
def execDex (f : Form) (s : State) : Result := runRow (ascii "DEX") f s

/-- Row `CPY $nnnn` (R145). -/
def execCpyAbs (f : Form) (s : State) : Result := runRow (ascii "CPY $nnnn") f s

/-- Row `CMP $nnnn` (R145). -/
def execCmpAbs (f : Form) (s : State) : Result := runRow (ascii "CMP $nnnn") f s

/-- Row `DEC $nnnn` (R145). -/
def execDecAbs (f : Form) (s : State) : Result := runRow (ascii "DEC $nnnn") f s

/-- Row `BNE rrrr` (R146). -/
def execBneRel (f : Form) (s : State) : Result := runRow (ascii "BNE rrrr") f s

/-- Row `CMP ($nn),Y` (R144). -/
def execCmpIndY (f : Form) (s : State) : Result := runRow (ascii "CMP ($nn),Y") f s

/-- Row `CMP $nn,X` (R144). -/
def execCmpZpX (f : Form) (s : State) : Result := runRow (ascii "CMP $nn,X") f s

/-- Row `DEC $nn,X` (R144). -/
def execDecZpX (f : Form) (s : State) : Result := runRow (ascii "DEC $nn,X") f s

/-- Row `CLD` (R143). -/
def execCld (f : Form) (s : State) : Result := runRow (ascii "CLD") f s

/-- Row `CMP $nnnn,Y` (R145). -/
def execCmpAbsY (f : Form) (s : State) : Result := runRow (ascii "CMP $nnnn,Y") f s

/-- Row `CMP $nnnn,X` (R145). -/
def execCmpAbsX (f : Form) (s : State) : Result := runRow (ascii "CMP $nnnn,X") f s

/-- Row `DEC $nnnn,X` (R145). -/
def execDecAbsX (f : Form) (s : State) : Result := runRow (ascii "DEC $nnnn,X") f s

/-- Row `CPX #$nn` (R144). -/
def execCpxImm (f : Form) (s : State) : Result := runRow (ascii "CPX #$nn") f s

/-- Row `SBC ($nn,X)` (R144). -/
def execSbcIndX (f : Form) (s : State) : Result := runRow (ascii "SBC ($nn,X)") f s

/-- Row `CPX $nn` (R144). -/
def execCpxZp (f : Form) (s : State) : Result := runRow (ascii "CPX $nn") f s

/-- Row `SBC $nn` (R144). -/
def execSbcZp (f : Form) (s : State) : Result := runRow (ascii "SBC $nn") f s

/-- Row `INC $nn` (R144). -/
def execIncZp (f : Form) (s : State) : Result := runRow (ascii "INC $nn") f s

/-- Row `INX` (R143, R164). -/
def execInx (f : Form) (s : State) : Result := runRow (ascii "INX") f s

/-- Row `SBC #$nn` (R144). -/
def execSbcImm (f : Form) (s : State) : Result := runRow (ascii "SBC #$nn") f s

/-- Row `NOP` (R143, R164, R211, R243, R247). -/
def execNop (f : Form) (s : State) : Result := runRow (ascii "NOP") f s

/-- Row `CPX $nnnn` (R145). -/
def execCpxAbs (f : Form) (s : State) : Result := runRow (ascii "CPX $nnnn") f s

/-- Row `SBC $nnnn` (R145). -/
def execSbcAbs (f : Form) (s : State) : Result := runRow (ascii "SBC $nnnn") f s

/-- Row `INC $nnnn` (R145). -/
def execIncAbs (f : Form) (s : State) : Result := runRow (ascii "INC $nnnn") f s

/-- Row `BEQ rrrr` (R146). -/
def execBeqRel (f : Form) (s : State) : Result := runRow (ascii "BEQ rrrr") f s

/-- Row `SBC ($nn),Y` (R144). -/
def execSbcIndY (f : Form) (s : State) : Result := runRow (ascii "SBC ($nn),Y") f s

/-- Row `SBC $nn,X` (R144). -/
def execSbcZpX (f : Form) (s : State) : Result := runRow (ascii "SBC $nn,X") f s

/-- Row `INC $nn,X` (R144). -/
def execIncZpX (f : Form) (s : State) : Result := runRow (ascii "INC $nn,X") f s

/-- Row `SED` (R143). -/
def execSed (f : Form) (s : State) : Result := runRow (ascii "SED") f s

/-- Row `SBC $nnnn,Y` (R145). -/
def execSbcAbsY (f : Form) (s : State) : Result := runRow (ascii "SBC $nnnn,Y") f s

/-- Row `SBC $nnnn,X` (R145). -/
def execSbcAbsX (f : Form) (s : State) : Result := runRow (ascii "SBC $nnnn,X") f s

/-- Row `INC $nnnn,X` (R145). -/
def execIncAbsX (f : Form) (s : State) : Result := runRow (ascii "INC $nnnn,X") f s

/-- Row `TSB $nn` (R144). -/
def execTsbZp (f : Form) (s : State) : Result := runRow (ascii "TSB $nn") f s

/-- Row `TSB $nnnn` (R145). -/
def execTsbAbs (f : Form) (s : State) : Result := runRow (ascii "TSB $nnnn") f s

/-- Row `ORA ($nn)` (R144). -/
def execOraZpInd (f : Form) (s : State) : Result := runRow (ascii "ORA ($nn)") f s

/-- Row `TRB $nn` (R144). -/
def execTrbZp (f : Form) (s : State) : Result := runRow (ascii "TRB $nn") f s

/-- Row `INC A` (R143, R243, R247). -/
def execInc_a (f : Form) (s : State) : Result := runRow (ascii "INC A") f s

/-- Row `TRB $nnnn` (R145). -/
def execTrbAbs (f : Form) (s : State) : Result := runRow (ascii "TRB $nnnn") f s

/-- Row `AND ($nn)` (R144). -/
def execAndZpInd (f : Form) (s : State) : Result := runRow (ascii "AND ($nn)") f s

/-- Row `BIT $nn,X` (R144). -/
def execBitZpX (f : Form) (s : State) : Result := runRow (ascii "BIT $nn,X") f s

/-- Row `DEC A` (R143, R243, R247). -/
def execDec_a (f : Form) (s : State) : Result := runRow (ascii "DEC A") f s

/-- Row `BIT $nnnn,X` (R145). -/
def execBitAbsX (f : Form) (s : State) : Result := runRow (ascii "BIT $nnnn,X") f s

/-- Row `EOR ($nn)` (R144). -/
def execEorZpInd (f : Form) (s : State) : Result := runRow (ascii "EOR ($nn)") f s

/-- Row `PHY` (R143). -/
def execPhy (f : Form) (s : State) : Result := runRow (ascii "PHY") f s

/-- Row `STZ $nn` (R144). -/
def execStzZp (f : Form) (s : State) : Result := runRow (ascii "STZ $nn") f s

/-- Row `ADC ($nn)` (R144). -/
def execAdcZpInd (f : Form) (s : State) : Result := runRow (ascii "ADC ($nn)") f s

/-- Row `STZ $nn,X` (R144). -/
def execStzZpX (f : Form) (s : State) : Result := runRow (ascii "STZ $nn,X") f s

/-- Row `PLY` (R143). -/
def execPly (f : Form) (s : State) : Result := runRow (ascii "PLY") f s

/-- Row `JMP ($nnnn,X)` (R145). -/
def execJmpAbsIndX (f : Form) (s : State) : Result := runRow (ascii "JMP ($nnnn,X)") f s

/-- Row `BRA rrrr` (R146). -/
def execBraRel (f : Form) (s : State) : Result := runRow (ascii "BRA rrrr") f s

/-- Row `BIT #$nn` (R144). -/
def execBitImm (f : Form) (s : State) : Result := runRow (ascii "BIT #$nn") f s

/-- Row `STA ($nn)` (R144). -/
def execStaZpInd (f : Form) (s : State) : Result := runRow (ascii "STA ($nn)") f s

/-- Row `STZ $nnnn` (R145). -/
def execStzAbs (f : Form) (s : State) : Result := runRow (ascii "STZ $nnnn") f s

/-- Row `STZ $nnnn,X` (R145). -/
def execStzAbsX (f : Form) (s : State) : Result := runRow (ascii "STZ $nnnn,X") f s

/-- Row `LDA ($nn)` (R144). -/
def execLdaZpInd (f : Form) (s : State) : Result := runRow (ascii "LDA ($nn)") f s

/-- Row `CMP ($nn)` (R144). -/
def execCmpZpInd (f : Form) (s : State) : Result := runRow (ascii "CMP ($nn)") f s

/-- Row `PHX` (R143). -/
def execPhx (f : Form) (s : State) : Result := runRow (ascii "PHX") f s

/-- Row `SBC ($nn)` (R144). -/
def execSbcZpInd (f : Form) (s : State) : Result := runRow (ascii "SBC ($nn)") f s

/-- Row `PLX` (R143). -/
def execPlx (f : Form) (s : State) : Result := runRow (ascii "PLX") f s

end Sys2Proof.Machine
end

