-- ==== Sys2Proof/Machine/ExecPostbyte.lean ====
section
/-! DEFINITION. The meanings of the index postbyte rows: the postbyte and its offset bytes go to the session in flight (R187 to R191, R220 to R229). -/

namespace Sys2Proof.Machine

/-- Row `n,R (5-bit offset)`, R220. -/
def execPostIdx5 (f : Form) (s : State) : Result := feedPostbyte f s

/-- Row `[$hhhh] (extended indirect)`, R227. -/
def execPostExtInd (f : Form) (s : State) : Result := feedPostbyte f s

/-- Row `,R+`, R225. -/
def execPostInc1 (f : Form) (s : State) : Result := feedPostbyte f s

/-- Row `,R++`, R225. -/
def execPostInc2 (f : Form) (s : State) : Result := feedPostbyte f s

/-- Row `[,R++]`, R225. -/
def execPostInc2Ind (f : Form) (s : State) : Result := feedPostbyte f s

/-- Row `,-R`, R225. -/
def execPostDec1 (f : Form) (s : State) : Result := feedPostbyte f s

/-- Row `,--R`, R225. -/
def execPostDec2 (f : Form) (s : State) : Result := feedPostbyte f s

/-- Row `[,--R]`, R225. -/
def execPostDec2Ind (f : Form) (s : State) : Result := feedPostbyte f s

/-- Row `,R`, R221. -/
def execPostZero (f : Form) (s : State) : Result := feedPostbyte f s

/-- Row `[,R]`, R221. -/
def execPostZeroInd (f : Form) (s : State) : Result := feedPostbyte f s

/-- Row `B,R`, R224. -/
def execPostAccB (f : Form) (s : State) : Result := feedPostbyte f s

/-- Row `[B,R]`, R224. -/
def execPostAccBInd (f : Form) (s : State) : Result := feedPostbyte f s

/-- Row `A,R`, R224. -/
def execPostAccA (f : Form) (s : State) : Result := feedPostbyte f s

/-- Row `[A,R]`, R224. -/
def execPostAccAInd (f : Form) (s : State) : Result := feedPostbyte f s

/-- Row `n,R (8-bit offset)`, R222. -/
def execPostConst8 (f : Form) (s : State) : Result := feedPostbyte f s

/-- Row `[n,R (8-bit offset)]`, R222. -/
def execPostConst8Ind (f : Form) (s : State) : Result := feedPostbyte f s

/-- Row `n,R (16-bit offset)`, R223. -/
def execPostConst16 (f : Form) (s : State) : Result := feedPostbyte f s

/-- Row `[n,R (16-bit offset)]`, R223. -/
def execPostConst16Ind (f : Form) (s : State) : Result := feedPostbyte f s

/-- Row `D,R`, R224. -/
def execPostAccD (f : Form) (s : State) : Result := feedPostbyte f s

/-- Row `[D,R]`, R224. -/
def execPostAccDInd (f : Form) (s : State) : Result := feedPostbyte f s

/-- Row `n,PCR (8-bit offset)`, R226. -/
def execPostPcr8 (f : Form) (s : State) : Result := feedPostbyte f s

/-- Row `[n,PCR (8-bit offset)]`, R226. -/
def execPostPcr8Ind (f : Form) (s : State) : Result := feedPostbyte f s

/-- Row `n,PCR (16-bit offset)`, R226. -/
def execPostPcr16 (f : Form) (s : State) : Result := feedPostbyte f s

/-- Row `[n,PCR (16-bit offset)]`, R226. -/
def execPostPcr16Ind (f : Form) (s : State) : Result := feedPostbyte f s

/-- Row `<?ADDRMODE?>`, R229. -/
def execPostInvalid (f : Form) (s : State) : Result := feedPostbyte f s

end Sys2Proof.Machine
end

