-- ==== Sys2Proof/Machine/ExecUnknown.lean ====
section
/-! DEFINITION. The meaning of the unknown opcodes, the rows `?` (R81, R292). -/

namespace Sys2Proof.Machine

/-- Row `?` (R81, R245, R252). -/
def execUnknown (f : Form) (s : State) : Result := runRow (ascii "?") f s

end Sys2Proof.Machine
end

