-- ==== Sys2Proof/Machine/ExecZ80.lean ====
section
/-! DEFINITION. The meanings of the unprefixed Z80 rows and of their `DD`/`FD` spellings that hold no `HL` (R243, R247). -/

namespace Sys2Proof.Machine

/-- Row `LD BC,XXXXh` (R243, R247). -/
def execLd_bc_word (f : Form) (s : State) : Result := runRow (ascii "LD BC,XXXXh") f s

/-- Row `LD (BC),A` (R243, R247). -/
def execLd_mBC_a (f : Form) (s : State) : Result := runRow (ascii "LD (BC),A") f s

/-- Row `INC BC` (R243, R247). -/
def execInc_bc (f : Form) (s : State) : Result := runRow (ascii "INC BC") f s

/-- Row `INC B` (R243, R247). -/
def execInc_b (f : Form) (s : State) : Result := runRow (ascii "INC B") f s

/-- Row `DEC B` (R243, R247). -/
def execDec_b (f : Form) (s : State) : Result := runRow (ascii "DEC B") f s

/-- Row `LD B,XXh` (R243, R247). -/
def execLd_b_byte (f : Form) (s : State) : Result := runRow (ascii "LD B,XXh") f s

/-- Row `RLCA` (R243, R247). -/
def execRlca (f : Form) (s : State) : Result := runRow (ascii "RLCA") f s

/-- Row `EX AF,AF'` (R243, R247). -/
def execEx_af_afAlt (f : Form) (s : State) : Result := runRow (ascii "EX AF,AF'") f s

/-- Row `LD A,(BC)` (R243, R247). -/
def execLd_a_mBC (f : Form) (s : State) : Result := runRow (ascii "LD A,(BC)") f s

/-- Row `DEC BC` (R243, R247). -/
def execDec_bc (f : Form) (s : State) : Result := runRow (ascii "DEC BC") f s

/-- Row `INC C` (R243, R247). -/
def execInc_c (f : Form) (s : State) : Result := runRow (ascii "INC C") f s

/-- Row `DEC C` (R243, R247). -/
def execDec_c (f : Form) (s : State) : Result := runRow (ascii "DEC C") f s

/-- Row `LD C,XXh` (R243, R247). -/
def execLd_c_byte (f : Form) (s : State) : Result := runRow (ascii "LD C,XXh") f s

/-- Row `RRCA` (R243, R247). -/
def execRrca (f : Form) (s : State) : Result := runRow (ascii "RRCA") f s

/-- Row `DJNZ rrrr` (R243, R247). -/
def execDjnz_rel (f : Form) (s : State) : Result := runRow (ascii "DJNZ rrrr") f s

/-- Row `LD DE,XXXXh` (R243, R247). -/
def execLd_de_word (f : Form) (s : State) : Result := runRow (ascii "LD DE,XXXXh") f s

/-- Row `LD (DE),A` (R243, R247). -/
def execLd_mDE_a (f : Form) (s : State) : Result := runRow (ascii "LD (DE),A") f s

/-- Row `INC DE` (R243, R247). -/
def execInc_de (f : Form) (s : State) : Result := runRow (ascii "INC DE") f s

/-- Row `INC D` (R243, R247). -/
def execInc_d (f : Form) (s : State) : Result := runRow (ascii "INC D") f s

/-- Row `DEC D` (R243, R247). -/
def execDec_d (f : Form) (s : State) : Result := runRow (ascii "DEC D") f s

/-- Row `LD D,XXh` (R243, R247). -/
def execLd_d_byte (f : Form) (s : State) : Result := runRow (ascii "LD D,XXh") f s

/-- Row `RLA` (R243, R247). -/
def execRla (f : Form) (s : State) : Result := runRow (ascii "RLA") f s

/-- Row `JR rrrr` (R243, R247). -/
def execJr_rel (f : Form) (s : State) : Result := runRow (ascii "JR rrrr") f s

/-- Row `LD A,(DE)` (R243, R247). -/
def execLd_a_mDE (f : Form) (s : State) : Result := runRow (ascii "LD A,(DE)") f s

/-- Row `DEC DE` (R243, R247). -/
def execDec_de (f : Form) (s : State) : Result := runRow (ascii "DEC DE") f s

/-- Row `INC E` (R243, R247). -/
def execInc_e (f : Form) (s : State) : Result := runRow (ascii "INC E") f s

/-- Row `DEC E` (R243, R247). -/
def execDec_e (f : Form) (s : State) : Result := runRow (ascii "DEC E") f s

/-- Row `LD E,XXh` (R243, R247). -/
def execLd_e_byte (f : Form) (s : State) : Result := runRow (ascii "LD E,XXh") f s

/-- Row `RRA` (R243, R247). -/
def execRra (f : Form) (s : State) : Result := runRow (ascii "RRA") f s

/-- Row `JR NZ,rrrr` (R243, R247). -/
def execJr_nz_rel (f : Form) (s : State) : Result := runRow (ascii "JR NZ,rrrr") f s

/-- Row `INC H` (R243, R247). -/
def execInc_h (f : Form) (s : State) : Result := runRow (ascii "INC H") f s

/-- Row `DEC H` (R243, R247). -/
def execDec_h (f : Form) (s : State) : Result := runRow (ascii "DEC H") f s

/-- Row `LD H,XXh` (R243, R247). -/
def execLd_h_byte (f : Form) (s : State) : Result := runRow (ascii "LD H,XXh") f s

/-- Row `JR Z,rrrr` (R243, R247). -/
def execJr_z_rel (f : Form) (s : State) : Result := runRow (ascii "JR Z,rrrr") f s

/-- Row `INC L` (R243, R247). -/
def execInc_l (f : Form) (s : State) : Result := runRow (ascii "INC L") f s

/-- Row `DEC L` (R243, R247). -/
def execDec_l (f : Form) (s : State) : Result := runRow (ascii "DEC L") f s

/-- Row `LD L,XXh` (R243, R247). -/
def execLd_l_byte (f : Form) (s : State) : Result := runRow (ascii "LD L,XXh") f s

/-- Row `CPL` (R243, R247). -/
def execCpl (f : Form) (s : State) : Result := runRow (ascii "CPL") f s

/-- Row `JR NC,rrrr` (R243, R247). -/
def execJr_nc_rel (f : Form) (s : State) : Result := runRow (ascii "JR NC,rrrr") f s

/-- Row `LD SP,XXXXh` (R243, R247). -/
def execLd_sp_word (f : Form) (s : State) : Result := runRow (ascii "LD SP,XXXXh") f s

/-- Row `LD (XXXXh),A` (R243, R247). -/
def execLd_mWord_a (f : Form) (s : State) : Result := runRow (ascii "LD (XXXXh),A") f s

/-- Row `INC SP` (R243, R247). -/
def execInc_sp (f : Form) (s : State) : Result := runRow (ascii "INC SP") f s

/-- Row `SCF` (R243, R247). -/
def execScf (f : Form) (s : State) : Result := runRow (ascii "SCF") f s

/-- Row `JR C,rrrr` (R243, R247). -/
def execJr_c_rel (f : Form) (s : State) : Result := runRow (ascii "JR C,rrrr") f s

/-- Row `LD A,(XXXXh)` (R243, R247). -/
def execLd_a_mWord (f : Form) (s : State) : Result := runRow (ascii "LD A,(XXXXh)") f s

/-- Row `DEC SP` (R243, R247). -/
def execDec_sp (f : Form) (s : State) : Result := runRow (ascii "DEC SP") f s

/-- Row `LD A,XXh` (R243, R247). -/
def execLd_a_byte (f : Form) (s : State) : Result := runRow (ascii "LD A,XXh") f s

/-- Row `CCF` (R243, R247). -/
def execCcf (f : Form) (s : State) : Result := runRow (ascii "CCF") f s

/-- Row `LD B,B` (R243, R247). -/
def execLd_b_b (f : Form) (s : State) : Result := runRow (ascii "LD B,B") f s

/-- Row `LD B,C` (R243, R247). -/
def execLd_b_c (f : Form) (s : State) : Result := runRow (ascii "LD B,C") f s

/-- Row `LD B,D` (R243, R247). -/
def execLd_b_d (f : Form) (s : State) : Result := runRow (ascii "LD B,D") f s

/-- Row `LD B,E` (R243, R247). -/
def execLd_b_e (f : Form) (s : State) : Result := runRow (ascii "LD B,E") f s

/-- Row `LD B,H` (R243, R247). -/
def execLd_b_h (f : Form) (s : State) : Result := runRow (ascii "LD B,H") f s

/-- Row `LD B,L` (R243, R247). -/
def execLd_b_l (f : Form) (s : State) : Result := runRow (ascii "LD B,L") f s

/-- Row `LD B,A` (R243, R247). -/
def execLd_b_a (f : Form) (s : State) : Result := runRow (ascii "LD B,A") f s

/-- Row `LD C,B` (R243, R247). -/
def execLd_c_b (f : Form) (s : State) : Result := runRow (ascii "LD C,B") f s

/-- Row `LD C,C` (R243, R247). -/
def execLd_c_c (f : Form) (s : State) : Result := runRow (ascii "LD C,C") f s

/-- Row `LD C,D` (R243, R247). -/
def execLd_c_d (f : Form) (s : State) : Result := runRow (ascii "LD C,D") f s

/-- Row `LD C,E` (R243, R247). -/
def execLd_c_e (f : Form) (s : State) : Result := runRow (ascii "LD C,E") f s

/-- Row `LD C,H` (R243, R247). -/
def execLd_c_h (f : Form) (s : State) : Result := runRow (ascii "LD C,H") f s

/-- Row `LD C,L` (R243, R247). -/
def execLd_c_l (f : Form) (s : State) : Result := runRow (ascii "LD C,L") f s

/-- Row `LD C,A` (R243, R247). -/
def execLd_c_a (f : Form) (s : State) : Result := runRow (ascii "LD C,A") f s

/-- Row `LD D,B` (R243, R247). -/
def execLd_d_b (f : Form) (s : State) : Result := runRow (ascii "LD D,B") f s

/-- Row `LD D,C` (R243, R247). -/
def execLd_d_c (f : Form) (s : State) : Result := runRow (ascii "LD D,C") f s

/-- Row `LD D,D` (R243, R247). -/
def execLd_d_d (f : Form) (s : State) : Result := runRow (ascii "LD D,D") f s

/-- Row `LD D,E` (R243, R247). -/
def execLd_d_e (f : Form) (s : State) : Result := runRow (ascii "LD D,E") f s

/-- Row `LD D,H` (R243, R247). -/
def execLd_d_h (f : Form) (s : State) : Result := runRow (ascii "LD D,H") f s

/-- Row `LD D,L` (R243, R247). -/
def execLd_d_l (f : Form) (s : State) : Result := runRow (ascii "LD D,L") f s

/-- Row `LD D,A` (R243, R247). -/
def execLd_d_a (f : Form) (s : State) : Result := runRow (ascii "LD D,A") f s

/-- Row `LD E,B` (R243, R247). -/
def execLd_e_b (f : Form) (s : State) : Result := runRow (ascii "LD E,B") f s

/-- Row `LD E,C` (R243, R247). -/
def execLd_e_c (f : Form) (s : State) : Result := runRow (ascii "LD E,C") f s

/-- Row `LD E,D` (R243, R247). -/
def execLd_e_d (f : Form) (s : State) : Result := runRow (ascii "LD E,D") f s

/-- Row `LD E,E` (R243, R247). -/
def execLd_e_e (f : Form) (s : State) : Result := runRow (ascii "LD E,E") f s

/-- Row `LD E,H` (R243, R247). -/
def execLd_e_h (f : Form) (s : State) : Result := runRow (ascii "LD E,H") f s

/-- Row `LD E,L` (R243, R247). -/
def execLd_e_l (f : Form) (s : State) : Result := runRow (ascii "LD E,L") f s

/-- Row `LD E,A` (R243, R247). -/
def execLd_e_a (f : Form) (s : State) : Result := runRow (ascii "LD E,A") f s

/-- Row `LD H,B` (R243, R247). -/
def execLd_h_b (f : Form) (s : State) : Result := runRow (ascii "LD H,B") f s

/-- Row `LD H,C` (R243, R247). -/
def execLd_h_c (f : Form) (s : State) : Result := runRow (ascii "LD H,C") f s

/-- Row `LD H,D` (R243, R247). -/
def execLd_h_d (f : Form) (s : State) : Result := runRow (ascii "LD H,D") f s

/-- Row `LD H,E` (R243, R247). -/
def execLd_h_e (f : Form) (s : State) : Result := runRow (ascii "LD H,E") f s

/-- Row `LD H,H` (R243, R247). -/
def execLd_h_h (f : Form) (s : State) : Result := runRow (ascii "LD H,H") f s

/-- Row `LD H,L` (R243, R247). -/
def execLd_h_l (f : Form) (s : State) : Result := runRow (ascii "LD H,L") f s

/-- Row `LD H,A` (R243, R247). -/
def execLd_h_a (f : Form) (s : State) : Result := runRow (ascii "LD H,A") f s

/-- Row `LD L,B` (R243, R247). -/
def execLd_l_b (f : Form) (s : State) : Result := runRow (ascii "LD L,B") f s

/-- Row `LD L,C` (R243, R247). -/
def execLd_l_c (f : Form) (s : State) : Result := runRow (ascii "LD L,C") f s

/-- Row `LD L,D` (R243, R247). -/
def execLd_l_d (f : Form) (s : State) : Result := runRow (ascii "LD L,D") f s

/-- Row `LD L,E` (R243, R247). -/
def execLd_l_e (f : Form) (s : State) : Result := runRow (ascii "LD L,E") f s

/-- Row `LD L,H` (R243, R247). -/
def execLd_l_h (f : Form) (s : State) : Result := runRow (ascii "LD L,H") f s

/-- Row `LD L,L` (R243, R247). -/
def execLd_l_l (f : Form) (s : State) : Result := runRow (ascii "LD L,L") f s

/-- Row `LD L,A` (R243, R247). -/
def execLd_l_a (f : Form) (s : State) : Result := runRow (ascii "LD L,A") f s

/-- Row `HALT` (R243, R247). -/
def execHalt (f : Form) (s : State) : Result := runRow (ascii "HALT") f s

/-- Row `LD A,B` (R243, R247). -/
def execLd_a_b (f : Form) (s : State) : Result := runRow (ascii "LD A,B") f s

/-- Row `LD A,C` (R243, R247). -/
def execLd_a_c (f : Form) (s : State) : Result := runRow (ascii "LD A,C") f s

/-- Row `LD A,D` (R243, R247). -/
def execLd_a_d (f : Form) (s : State) : Result := runRow (ascii "LD A,D") f s

/-- Row `LD A,E` (R243, R247). -/
def execLd_a_e (f : Form) (s : State) : Result := runRow (ascii "LD A,E") f s

/-- Row `LD A,H` (R243, R247). -/
def execLd_a_h (f : Form) (s : State) : Result := runRow (ascii "LD A,H") f s

/-- Row `LD A,L` (R243, R247). -/
def execLd_a_l (f : Form) (s : State) : Result := runRow (ascii "LD A,L") f s

/-- Row `LD A,A` (R243, R247). -/
def execLd_a_a (f : Form) (s : State) : Result := runRow (ascii "LD A,A") f s

/-- Row `ADD A,B` (R243, R247). -/
def execAdd_a_b (f : Form) (s : State) : Result := runRow (ascii "ADD A,B") f s

/-- Row `ADD A,C` (R243, R247). -/
def execAdd_a_c (f : Form) (s : State) : Result := runRow (ascii "ADD A,C") f s

/-- Row `ADD A,D` (R243, R247). -/
def execAdd_a_d (f : Form) (s : State) : Result := runRow (ascii "ADD A,D") f s

/-- Row `ADD A,E` (R243, R247). -/
def execAdd_a_e (f : Form) (s : State) : Result := runRow (ascii "ADD A,E") f s

/-- Row `ADD A,H` (R243, R247). -/
def execAdd_a_h (f : Form) (s : State) : Result := runRow (ascii "ADD A,H") f s

/-- Row `ADD A,L` (R243, R247). -/
def execAdd_a_l (f : Form) (s : State) : Result := runRow (ascii "ADD A,L") f s

/-- Row `ADD A,A` (R243, R247). -/
def execAdd_a_a (f : Form) (s : State) : Result := runRow (ascii "ADD A,A") f s

/-- Row `ADC A,B` (R243, R247). -/
def execAdc_a_b (f : Form) (s : State) : Result := runRow (ascii "ADC A,B") f s

/-- Row `ADC A,C` (R243, R247). -/
def execAdc_a_c (f : Form) (s : State) : Result := runRow (ascii "ADC A,C") f s

/-- Row `ADC A,D` (R243, R247). -/
def execAdc_a_d (f : Form) (s : State) : Result := runRow (ascii "ADC A,D") f s

/-- Row `ADC A,E` (R243, R247). -/
def execAdc_a_e (f : Form) (s : State) : Result := runRow (ascii "ADC A,E") f s

/-- Row `ADC A,H` (R243, R247). -/
def execAdc_a_h (f : Form) (s : State) : Result := runRow (ascii "ADC A,H") f s

/-- Row `ADC A,L` (R243, R247). -/
def execAdc_a_l (f : Form) (s : State) : Result := runRow (ascii "ADC A,L") f s

/-- Row `ADC A,A` (R243, R247). -/
def execAdc_a_a (f : Form) (s : State) : Result := runRow (ascii "ADC A,A") f s

/-- Row `SUB B` (R243, R247). -/
def execSub_b (f : Form) (s : State) : Result := runRow (ascii "SUB B") f s

/-- Row `SUB C` (R243, R247). -/
def execSub_c (f : Form) (s : State) : Result := runRow (ascii "SUB C") f s

/-- Row `SUB D` (R243, R247). -/
def execSub_d (f : Form) (s : State) : Result := runRow (ascii "SUB D") f s

/-- Row `SUB E` (R243, R247). -/
def execSub_e (f : Form) (s : State) : Result := runRow (ascii "SUB E") f s

/-- Row `SUB H` (R243, R247). -/
def execSub_h (f : Form) (s : State) : Result := runRow (ascii "SUB H") f s

/-- Row `SUB L` (R243, R247). -/
def execSub_l (f : Form) (s : State) : Result := runRow (ascii "SUB L") f s

/-- Row `SUB A` (R243, R247). -/
def execSub_a (f : Form) (s : State) : Result := runRow (ascii "SUB A") f s

/-- Row `SBC A,B` (R243, R247). -/
def execSbc_a_b (f : Form) (s : State) : Result := runRow (ascii "SBC A,B") f s

/-- Row `SBC A,C` (R243, R247). -/
def execSbc_a_c (f : Form) (s : State) : Result := runRow (ascii "SBC A,C") f s

/-- Row `SBC A,D` (R243, R247). -/
def execSbc_a_d (f : Form) (s : State) : Result := runRow (ascii "SBC A,D") f s

/-- Row `SBC A,E` (R243, R247). -/
def execSbc_a_e (f : Form) (s : State) : Result := runRow (ascii "SBC A,E") f s

/-- Row `SBC A,H` (R243, R247). -/
def execSbc_a_h (f : Form) (s : State) : Result := runRow (ascii "SBC A,H") f s

/-- Row `SBC A,L` (R243, R247). -/
def execSbc_a_l (f : Form) (s : State) : Result := runRow (ascii "SBC A,L") f s

/-- Row `SBC A,A` (R243, R247). -/
def execSbc_a_a (f : Form) (s : State) : Result := runRow (ascii "SBC A,A") f s

/-- Row `AND B` (R243, R247). -/
def execAnd_b (f : Form) (s : State) : Result := runRow (ascii "AND B") f s

/-- Row `AND C` (R243, R247). -/
def execAnd_c (f : Form) (s : State) : Result := runRow (ascii "AND C") f s

/-- Row `AND D` (R243, R247). -/
def execAnd_d (f : Form) (s : State) : Result := runRow (ascii "AND D") f s

/-- Row `AND E` (R243, R247). -/
def execAnd_e (f : Form) (s : State) : Result := runRow (ascii "AND E") f s

/-- Row `AND H` (R243, R247). -/
def execAnd_h (f : Form) (s : State) : Result := runRow (ascii "AND H") f s

/-- Row `AND L` (R243, R247). -/
def execAnd_l (f : Form) (s : State) : Result := runRow (ascii "AND L") f s

/-- Row `AND A` (R243, R247). -/
def execAnd_a (f : Form) (s : State) : Result := runRow (ascii "AND A") f s

/-- Row `XOR B` (R243, R247). -/
def execXor_b (f : Form) (s : State) : Result := runRow (ascii "XOR B") f s

/-- Row `XOR C` (R243, R247). -/
def execXor_c (f : Form) (s : State) : Result := runRow (ascii "XOR C") f s

/-- Row `XOR D` (R243, R247). -/
def execXor_d (f : Form) (s : State) : Result := runRow (ascii "XOR D") f s

/-- Row `XOR E` (R243, R247). -/
def execXor_e (f : Form) (s : State) : Result := runRow (ascii "XOR E") f s

/-- Row `XOR H` (R243, R247). -/
def execXor_h (f : Form) (s : State) : Result := runRow (ascii "XOR H") f s

/-- Row `XOR L` (R243, R247). -/
def execXor_l (f : Form) (s : State) : Result := runRow (ascii "XOR L") f s

/-- Row `XOR A` (R243, R247). -/
def execXor_a (f : Form) (s : State) : Result := runRow (ascii "XOR A") f s

/-- Row `OR B` (R243, R247). -/
def execOr_b (f : Form) (s : State) : Result := runRow (ascii "OR B") f s

/-- Row `OR C` (R243, R247). -/
def execOr_c (f : Form) (s : State) : Result := runRow (ascii "OR C") f s

/-- Row `OR D` (R243, R247). -/
def execOr_d (f : Form) (s : State) : Result := runRow (ascii "OR D") f s

/-- Row `OR E` (R243, R247). -/
def execOr_e (f : Form) (s : State) : Result := runRow (ascii "OR E") f s

/-- Row `OR H` (R243, R247). -/
def execOr_h (f : Form) (s : State) : Result := runRow (ascii "OR H") f s

/-- Row `OR L` (R243, R247). -/
def execOr_l (f : Form) (s : State) : Result := runRow (ascii "OR L") f s

/-- Row `OR A` (R243, R247). -/
def execOr_a (f : Form) (s : State) : Result := runRow (ascii "OR A") f s

/-- Row `CP B` (R243, R247). -/
def execCp_b (f : Form) (s : State) : Result := runRow (ascii "CP B") f s

/-- Row `CP C` (R243, R247). -/
def execCp_c (f : Form) (s : State) : Result := runRow (ascii "CP C") f s

/-- Row `CP D` (R243, R247). -/
def execCp_d (f : Form) (s : State) : Result := runRow (ascii "CP D") f s

/-- Row `CP E` (R243, R247). -/
def execCp_e (f : Form) (s : State) : Result := runRow (ascii "CP E") f s

/-- Row `CP H` (R243, R247). -/
def execCp_h (f : Form) (s : State) : Result := runRow (ascii "CP H") f s

/-- Row `CP L` (R243, R247). -/
def execCp_l (f : Form) (s : State) : Result := runRow (ascii "CP L") f s

/-- Row `CP A` (R243, R247). -/
def execCp_a (f : Form) (s : State) : Result := runRow (ascii "CP A") f s

/-- Row `RET NZ` (R243, R247). -/
def execRet_nz (f : Form) (s : State) : Result := runRow (ascii "RET NZ") f s

/-- Row `POP BC` (R243, R247). -/
def execPop_bc (f : Form) (s : State) : Result := runRow (ascii "POP BC") f s

/-- Row `JP NZ,XXXXh` (R243, R247). -/
def execJp_nz_word (f : Form) (s : State) : Result := runRow (ascii "JP NZ,XXXXh") f s

/-- Row `JP XXXXh` (R243, R247). -/
def execJp_word (f : Form) (s : State) : Result := runRow (ascii "JP XXXXh") f s

/-- Row `CALL NZ,XXXXh` (R243, R247). -/
def execCall_nz_word (f : Form) (s : State) : Result := runRow (ascii "CALL NZ,XXXXh") f s

/-- Row `PUSH BC` (R243, R247). -/
def execPush_bc (f : Form) (s : State) : Result := runRow (ascii "PUSH BC") f s

/-- Row `ADD A,XXh` (R243, R247). -/
def execAdd_a_byte (f : Form) (s : State) : Result := runRow (ascii "ADD A,XXh") f s

/-- Row `RST 00h` (R243, R247). -/
def execRst_00h (f : Form) (s : State) : Result := runRow (ascii "RST 00h") f s

/-- Row `RET Z` (R243, R247). -/
def execRet_z (f : Form) (s : State) : Result := runRow (ascii "RET Z") f s

/-- Row `RET` (R243, R247). -/
def execRet (f : Form) (s : State) : Result := runRow (ascii "RET") f s

/-- Row `JP Z,XXXXh` (R243, R247). -/
def execJp_z_word (f : Form) (s : State) : Result := runRow (ascii "JP Z,XXXXh") f s

/-- Row `CALL Z,XXXXh` (R243, R247). -/
def execCall_z_word (f : Form) (s : State) : Result := runRow (ascii "CALL Z,XXXXh") f s

/-- Row `CALL XXXXh` (R243, R247). -/
def execCall_word (f : Form) (s : State) : Result := runRow (ascii "CALL XXXXh") f s

/-- Row `ADC A,XXh` (R243, R247). -/
def execAdc_a_byte (f : Form) (s : State) : Result := runRow (ascii "ADC A,XXh") f s

/-- Row `RST 08h` (R243, R247). -/
def execRst_08h (f : Form) (s : State) : Result := runRow (ascii "RST 08h") f s

/-- Row `RET NC` (R243, R247). -/
def execRet_nc (f : Form) (s : State) : Result := runRow (ascii "RET NC") f s

/-- Row `POP DE` (R243, R247). -/
def execPop_de (f : Form) (s : State) : Result := runRow (ascii "POP DE") f s

/-- Row `JP NC,XXXXh` (R243, R247). -/
def execJp_nc_word (f : Form) (s : State) : Result := runRow (ascii "JP NC,XXXXh") f s

/-- Row `OUT (XXh),A` (R243, R247). -/
def execOut_mByte_a (f : Form) (s : State) : Result := runRow (ascii "OUT (XXh),A") f s

/-- Row `CALL NC,XXXXh` (R243, R247). -/
def execCall_nc_word (f : Form) (s : State) : Result := runRow (ascii "CALL NC,XXXXh") f s

/-- Row `PUSH DE` (R243, R247). -/
def execPush_de (f : Form) (s : State) : Result := runRow (ascii "PUSH DE") f s

/-- Row `SUB XXh` (R243, R247). -/
def execSub_byte (f : Form) (s : State) : Result := runRow (ascii "SUB XXh") f s

/-- Row `RST 10h` (R243, R247). -/
def execRst_10h (f : Form) (s : State) : Result := runRow (ascii "RST 10h") f s

/-- Row `RET C` (R243, R247). -/
def execRet_c (f : Form) (s : State) : Result := runRow (ascii "RET C") f s

/-- Row `EXX` (R243, R247). -/
def execExx (f : Form) (s : State) : Result := runRow (ascii "EXX") f s

/-- Row `JP C,XXXXh` (R243, R247). -/
def execJp_c_word (f : Form) (s : State) : Result := runRow (ascii "JP C,XXXXh") f s

/-- Row `IN A,(XXh)` (R243, R247). -/
def execIn_a_mByte (f : Form) (s : State) : Result := runRow (ascii "IN A,(XXh)") f s

/-- Row `CALL C,XXXXh` (R243, R247). -/
def execCall_c_word (f : Form) (s : State) : Result := runRow (ascii "CALL C,XXXXh") f s

/-- Row `SBC A,XXh` (R243, R247). -/
def execSbc_a_byte (f : Form) (s : State) : Result := runRow (ascii "SBC A,XXh") f s

/-- Row `RST 18h` (R243, R247). -/
def execRst_18h (f : Form) (s : State) : Result := runRow (ascii "RST 18h") f s

/-- Row `RET PO` (R243, R247). -/
def execRet_po (f : Form) (s : State) : Result := runRow (ascii "RET PO") f s

/-- Row `JP PO,XXXXh` (R243, R247). -/
def execJp_po_word (f : Form) (s : State) : Result := runRow (ascii "JP PO,XXXXh") f s

/-- Row `CALL PO,XXXXh` (R243, R247). -/
def execCall_po_word (f : Form) (s : State) : Result := runRow (ascii "CALL PO,XXXXh") f s

/-- Row `AND XXh` (R243, R247). -/
def execAnd_byte (f : Form) (s : State) : Result := runRow (ascii "AND XXh") f s

/-- Row `RST 20h` (R243, R247). -/
def execRst_20h (f : Form) (s : State) : Result := runRow (ascii "RST 20h") f s

/-- Row `RET PE` (R243, R247). -/
def execRet_pe (f : Form) (s : State) : Result := runRow (ascii "RET PE") f s

/-- Row `JP PE,XXXXh` (R243, R247). -/
def execJp_pe_word (f : Form) (s : State) : Result := runRow (ascii "JP PE,XXXXh") f s

/-- Row `CALL PE,XXXXh` (R243, R247). -/
def execCall_pe_word (f : Form) (s : State) : Result := runRow (ascii "CALL PE,XXXXh") f s

/-- Row `XOR XXh` (R243, R247). -/
def execXor_byte (f : Form) (s : State) : Result := runRow (ascii "XOR XXh") f s

/-- Row `RST 28h` (R243, R247). -/
def execRst_28h (f : Form) (s : State) : Result := runRow (ascii "RST 28h") f s

/-- Row `RET P` (R243, R247). -/
def execRet_p (f : Form) (s : State) : Result := runRow (ascii "RET P") f s

/-- Row `POP AF` (R243, R247). -/
def execPop_af (f : Form) (s : State) : Result := runRow (ascii "POP AF") f s

/-- Row `JP P,XXXXh` (R243, R247). -/
def execJp_p_word (f : Form) (s : State) : Result := runRow (ascii "JP P,XXXXh") f s

/-- Row `DI` (R243, R247). -/
def execDi (f : Form) (s : State) : Result := runRow (ascii "DI") f s

/-- Row `CALL P,XXXXh` (R243, R247). -/
def execCall_p_word (f : Form) (s : State) : Result := runRow (ascii "CALL P,XXXXh") f s

/-- Row `PUSH AF` (R243, R247). -/
def execPush_af (f : Form) (s : State) : Result := runRow (ascii "PUSH AF") f s

/-- Row `OR XXh` (R243, R247). -/
def execOr_byte (f : Form) (s : State) : Result := runRow (ascii "OR XXh") f s

/-- Row `RST 30h` (R243, R247). -/
def execRst_30h (f : Form) (s : State) : Result := runRow (ascii "RST 30h") f s

/-- Row `RET M` (R243, R247). -/
def execRet_m (f : Form) (s : State) : Result := runRow (ascii "RET M") f s

/-- Row `JP M,XXXXh` (R243, R247). -/
def execJp_m_word (f : Form) (s : State) : Result := runRow (ascii "JP M,XXXXh") f s

/-- Row `EI` (R243, R247). -/
def execEi (f : Form) (s : State) : Result := runRow (ascii "EI") f s

/-- Row `CALL M,XXXXh` (R243, R247). -/
def execCall_m_word (f : Form) (s : State) : Result := runRow (ascii "CALL M,XXXXh") f s

/-- Row `CP XXh` (R243, R247). -/
def execCp_byte (f : Form) (s : State) : Result := runRow (ascii "CP XXh") f s

/-- Row `RST 38h` (R243, R247). -/
def execRst_38h (f : Form) (s : State) : Result := runRow (ascii "RST 38h") f s

/-- Row `ADD HL,BC` (R243). -/
def execAdd_hl_bc (f : Form) (s : State) : Result := runRow (ascii "ADD HL,BC") f s

/-- Row `ADD HL,DE` (R243). -/
def execAdd_hl_de (f : Form) (s : State) : Result := runRow (ascii "ADD HL,DE") f s

/-- Row `LD HL,XXXXh` (R243). -/
def execLd_hl_word (f : Form) (s : State) : Result := runRow (ascii "LD HL,XXXXh") f s

/-- Row `LD (XXXXh),HL` (R243). -/
def execLd_mWord_hl (f : Form) (s : State) : Result := runRow (ascii "LD (XXXXh),HL") f s

/-- Row `INC HL` (R243). -/
def execInc_hl (f : Form) (s : State) : Result := runRow (ascii "INC HL") f s

/-- Row `ADD HL,HL` (R243). -/
def execAdd_hl_hl (f : Form) (s : State) : Result := runRow (ascii "ADD HL,HL") f s

/-- Row `LD HL,(XXXXh)` (R243). -/
def execLd_hl_mWord (f : Form) (s : State) : Result := runRow (ascii "LD HL,(XXXXh)") f s

/-- Row `DEC HL` (R243). -/
def execDec_hl (f : Form) (s : State) : Result := runRow (ascii "DEC HL") f s

/-- Row `INC (HL)` (R243). -/
def execInc_mHL (f : Form) (s : State) : Result := runRow (ascii "INC (HL)") f s

/-- Row `DEC (HL)` (R243). -/
def execDec_mHL (f : Form) (s : State) : Result := runRow (ascii "DEC (HL)") f s

/-- Row `LD (HL),XXh` (R243). -/
def execLd_mHL_byte (f : Form) (s : State) : Result := runRow (ascii "LD (HL),XXh") f s

/-- Row `ADD HL,SP` (R243). -/
def execAdd_hl_sp (f : Form) (s : State) : Result := runRow (ascii "ADD HL,SP") f s

/-- Row `LD B,(HL)` (R243). -/
def execLd_b_mHL (f : Form) (s : State) : Result := runRow (ascii "LD B,(HL)") f s

/-- Row `LD C,(HL)` (R243). -/
def execLd_c_mHL (f : Form) (s : State) : Result := runRow (ascii "LD C,(HL)") f s

/-- Row `LD D,(HL)` (R243). -/
def execLd_d_mHL (f : Form) (s : State) : Result := runRow (ascii "LD D,(HL)") f s

/-- Row `LD E,(HL)` (R243). -/
def execLd_e_mHL (f : Form) (s : State) : Result := runRow (ascii "LD E,(HL)") f s

/-- Row `LD H,(HL)` (R243). -/
def execLd_h_mHL (f : Form) (s : State) : Result := runRow (ascii "LD H,(HL)") f s

/-- Row `LD L,(HL)` (R243). -/
def execLd_l_mHL (f : Form) (s : State) : Result := runRow (ascii "LD L,(HL)") f s

/-- Row `LD (HL),B` (R243). -/
def execLd_mHL_b (f : Form) (s : State) : Result := runRow (ascii "LD (HL),B") f s

/-- Row `LD (HL),C` (R243). -/
def execLd_mHL_c (f : Form) (s : State) : Result := runRow (ascii "LD (HL),C") f s

/-- Row `LD (HL),D` (R243). -/
def execLd_mHL_d (f : Form) (s : State) : Result := runRow (ascii "LD (HL),D") f s

/-- Row `LD (HL),E` (R243). -/
def execLd_mHL_e (f : Form) (s : State) : Result := runRow (ascii "LD (HL),E") f s

/-- Row `LD (HL),H` (R243). -/
def execLd_mHL_h (f : Form) (s : State) : Result := runRow (ascii "LD (HL),H") f s

/-- Row `LD (HL),L` (R243). -/
def execLd_mHL_l (f : Form) (s : State) : Result := runRow (ascii "LD (HL),L") f s

/-- Row `LD (HL),A` (R243). -/
def execLd_mHL_a (f : Form) (s : State) : Result := runRow (ascii "LD (HL),A") f s

/-- Row `LD A,(HL)` (R243). -/
def execLd_a_mHL (f : Form) (s : State) : Result := runRow (ascii "LD A,(HL)") f s

/-- Row `ADD A,(HL)` (R243). -/
def execAdd_a_mHL (f : Form) (s : State) : Result := runRow (ascii "ADD A,(HL)") f s

/-- Row `ADC A,(HL)` (R243). -/
def execAdc_a_mHL (f : Form) (s : State) : Result := runRow (ascii "ADC A,(HL)") f s

/-- Row `SUB (HL)` (R243). -/
def execSub_mHL (f : Form) (s : State) : Result := runRow (ascii "SUB (HL)") f s

/-- Row `SBC A,(HL)` (R243). -/
def execSbc_a_mHL (f : Form) (s : State) : Result := runRow (ascii "SBC A,(HL)") f s

/-- Row `AND (HL)` (R243). -/
def execAnd_mHL (f : Form) (s : State) : Result := runRow (ascii "AND (HL)") f s

/-- Row `XOR (HL)` (R243). -/
def execXor_mHL (f : Form) (s : State) : Result := runRow (ascii "XOR (HL)") f s

/-- Row `OR (HL)` (R243). -/
def execOr_mHL (f : Form) (s : State) : Result := runRow (ascii "OR (HL)") f s

/-- Row `CP (HL)` (R243). -/
def execCp_mHL (f : Form) (s : State) : Result := runRow (ascii "CP (HL)") f s

/-- Row `POP HL` (R243). -/
def execPop_hl (f : Form) (s : State) : Result := runRow (ascii "POP HL") f s

/-- Row `EX (SP),HL` (R243). -/
def execEx_mSP_hl (f : Form) (s : State) : Result := runRow (ascii "EX (SP),HL") f s

/-- Row `PUSH HL` (R243). -/
def execPush_hl (f : Form) (s : State) : Result := runRow (ascii "PUSH HL") f s

/-- Row `JP (HL)` (R243). -/
def execJp_mHL (f : Form) (s : State) : Result := runRow (ascii "JP (HL)") f s

/-- Row `EX DE,HL` (R243). -/
def execEx_de_hl (f : Form) (s : State) : Result := runRow (ascii "EX DE,HL") f s

/-- Row `LD SP,HL` (R243). -/
def execLd_sp_hl (f : Form) (s : State) : Result := runRow (ascii "LD SP,HL") f s

end Sys2Proof.Machine
end

