-- ==== Sys2Proof/Machine/ExecZ80Prefixed.lean ====
section
/-! DEFINITION. The meanings of the `CB`, `ED`, `DD`/`FD` and `DD/FD CB` rows of the Z80 (R245 to R251). -/

namespace Sys2Proof.Machine

/-- Row `RLC ({ireg}+ddd)` (R251). -/
def execRlc_mXYd (f : Form) (s : State) : Result := runRow (ascii "RLC (" ++ formIreg f ++ ascii "+ddd)") f s

/-- Row `RRC ({ireg}+ddd)` (R251). -/
def execRrc_mXYd (f : Form) (s : State) : Result := runRow (ascii "RRC (" ++ formIreg f ++ ascii "+ddd)") f s

/-- Row `RL ({ireg}+ddd)` (R251). -/
def execRl_mXYd (f : Form) (s : State) : Result := runRow (ascii "RL (" ++ formIreg f ++ ascii "+ddd)") f s

/-- Row `RR ({ireg}+ddd)` (R251). -/
def execRr_mXYd (f : Form) (s : State) : Result := runRow (ascii "RR (" ++ formIreg f ++ ascii "+ddd)") f s

/-- Row `SLA ({ireg}+ddd)` (R251). -/
def execSla_mXYd (f : Form) (s : State) : Result := runRow (ascii "SLA (" ++ formIreg f ++ ascii "+ddd)") f s

/-- Row `SRA ({ireg}+ddd)` (R251). -/
def execSra_mXYd (f : Form) (s : State) : Result := runRow (ascii "SRA (" ++ formIreg f ++ ascii "+ddd)") f s

/-- Row `? ({ireg}+ddd)` (R251). -/
def execRotUnknown_mXYd (f : Form) (s : State) : Result := runRow (ascii "? (" ++ formIreg f ++ ascii "+ddd)") f s

/-- Row `SRL ({ireg}+ddd)` (R251). -/
def execSrl_mXYd (f : Form) (s : State) : Result := runRow (ascii "SRL (" ++ formIreg f ++ ascii "+ddd)") f s

/-- Row `BIT 0,({ireg}+ddd)` (R251). -/
def execBit_0_mXYd (f : Form) (s : State) : Result := runRow (ascii "BIT 0,(" ++ formIreg f ++ ascii "+ddd)") f s

/-- Row `BIT 1,({ireg}+ddd)` (R251). -/
def execBit_1_mXYd (f : Form) (s : State) : Result := runRow (ascii "BIT 1,(" ++ formIreg f ++ ascii "+ddd)") f s

/-- Row `BIT 2,({ireg}+ddd)` (R251). -/
def execBit_2_mXYd (f : Form) (s : State) : Result := runRow (ascii "BIT 2,(" ++ formIreg f ++ ascii "+ddd)") f s

/-- Row `BIT 3,({ireg}+ddd)` (R251). -/
def execBit_3_mXYd (f : Form) (s : State) : Result := runRow (ascii "BIT 3,(" ++ formIreg f ++ ascii "+ddd)") f s

/-- Row `BIT 4,({ireg}+ddd)` (R251). -/
def execBit_4_mXYd (f : Form) (s : State) : Result := runRow (ascii "BIT 4,(" ++ formIreg f ++ ascii "+ddd)") f s

/-- Row `BIT 5,({ireg}+ddd)` (R251). -/
def execBit_5_mXYd (f : Form) (s : State) : Result := runRow (ascii "BIT 5,(" ++ formIreg f ++ ascii "+ddd)") f s

/-- Row `BIT 6,({ireg}+ddd)` (R251). -/
def execBit_6_mXYd (f : Form) (s : State) : Result := runRow (ascii "BIT 6,(" ++ formIreg f ++ ascii "+ddd)") f s

/-- Row `BIT 7,({ireg}+ddd)` (R251). -/
def execBit_7_mXYd (f : Form) (s : State) : Result := runRow (ascii "BIT 7,(" ++ formIreg f ++ ascii "+ddd)") f s

/-- Row `RES 0,({ireg}+ddd)` (R251). -/
def execRes_0_mXYd (f : Form) (s : State) : Result := runRow (ascii "RES 0,(" ++ formIreg f ++ ascii "+ddd)") f s

/-- Row `RES 1,({ireg}+ddd)` (R251). -/
def execRes_1_mXYd (f : Form) (s : State) : Result := runRow (ascii "RES 1,(" ++ formIreg f ++ ascii "+ddd)") f s

/-- Row `RES 2,({ireg}+ddd)` (R251). -/
def execRes_2_mXYd (f : Form) (s : State) : Result := runRow (ascii "RES 2,(" ++ formIreg f ++ ascii "+ddd)") f s

/-- Row `RES 3,({ireg}+ddd)` (R251). -/
def execRes_3_mXYd (f : Form) (s : State) : Result := runRow (ascii "RES 3,(" ++ formIreg f ++ ascii "+ddd)") f s

/-- Row `RES 4,({ireg}+ddd)` (R251). -/
def execRes_4_mXYd (f : Form) (s : State) : Result := runRow (ascii "RES 4,(" ++ formIreg f ++ ascii "+ddd)") f s

/-- Row `RES 5,({ireg}+ddd)` (R251). -/
def execRes_5_mXYd (f : Form) (s : State) : Result := runRow (ascii "RES 5,(" ++ formIreg f ++ ascii "+ddd)") f s

/-- Row `RES 6,({ireg}+ddd)` (R251). -/
def execRes_6_mXYd (f : Form) (s : State) : Result := runRow (ascii "RES 6,(" ++ formIreg f ++ ascii "+ddd)") f s

/-- Row `RES 7,({ireg}+ddd)` (R251). -/
def execRes_7_mXYd (f : Form) (s : State) : Result := runRow (ascii "RES 7,(" ++ formIreg f ++ ascii "+ddd)") f s

/-- Row `SET 0,({ireg}+ddd)` (R251). -/
def execSet_0_mXYd (f : Form) (s : State) : Result := runRow (ascii "SET 0,(" ++ formIreg f ++ ascii "+ddd)") f s

/-- Row `SET 1,({ireg}+ddd)` (R251). -/
def execSet_1_mXYd (f : Form) (s : State) : Result := runRow (ascii "SET 1,(" ++ formIreg f ++ ascii "+ddd)") f s

/-- Row `SET 2,({ireg}+ddd)` (R251). -/
def execSet_2_mXYd (f : Form) (s : State) : Result := runRow (ascii "SET 2,(" ++ formIreg f ++ ascii "+ddd)") f s

/-- Row `SET 3,({ireg}+ddd)` (R251). -/
def execSet_3_mXYd (f : Form) (s : State) : Result := runRow (ascii "SET 3,(" ++ formIreg f ++ ascii "+ddd)") f s

/-- Row `SET 4,({ireg}+ddd)` (R251). -/
def execSet_4_mXYd (f : Form) (s : State) : Result := runRow (ascii "SET 4,(" ++ formIreg f ++ ascii "+ddd)") f s

/-- Row `SET 5,({ireg}+ddd)` (R251). -/
def execSet_5_mXYd (f : Form) (s : State) : Result := runRow (ascii "SET 5,(" ++ formIreg f ++ ascii "+ddd)") f s

/-- Row `SET 6,({ireg}+ddd)` (R251). -/
def execSet_6_mXYd (f : Form) (s : State) : Result := runRow (ascii "SET 6,(" ++ formIreg f ++ ascii "+ddd)") f s

/-- Row `SET 7,({ireg}+ddd)` (R251). -/
def execSet_7_mXYd (f : Form) (s : State) : Result := runRow (ascii "SET 7,(" ++ formIreg f ++ ascii "+ddd)") f s

/-- Row `RLC {R8[z]}` (R246, R251). -/
def execRlc_r8 (f : Form) (s : State) : Result := runRow (ascii "RLC " ++ formR8 f) f s

/-- Row `RRC {R8[z]}` (R246, R251). -/
def execRrc_r8 (f : Form) (s : State) : Result := runRow (ascii "RRC " ++ formR8 f) f s

/-- Row `RL {R8[z]}` (R246, R251). -/
def execRl_r8 (f : Form) (s : State) : Result := runRow (ascii "RL " ++ formR8 f) f s

/-- Row `RR {R8[z]}` (R246, R251). -/
def execRr_r8 (f : Form) (s : State) : Result := runRow (ascii "RR " ++ formR8 f) f s

/-- Row `SLA {R8[z]}` (R246, R251). -/
def execSla_r8 (f : Form) (s : State) : Result := runRow (ascii "SLA " ++ formR8 f) f s

/-- Row `SRA {R8[z]}` (R246, R251). -/
def execSra_r8 (f : Form) (s : State) : Result := runRow (ascii "SRA " ++ formR8 f) f s

/-- Row `? {R8[z]}` (R246, R251). -/
def execRotUnknown_r8 (f : Form) (s : State) : Result := runRow (ascii "? " ++ formR8 f) f s

/-- Row `SRL {R8[z]}` (R246, R251). -/
def execSrl_r8 (f : Form) (s : State) : Result := runRow (ascii "SRL " ++ formR8 f) f s

/-- Row `BIT 0,{R8[z]}` (R246, R251). -/
def execBit_0_r8 (f : Form) (s : State) : Result := runRow (ascii "BIT 0," ++ formR8 f) f s

/-- Row `BIT 1,{R8[z]}` (R246, R251). -/
def execBit_1_r8 (f : Form) (s : State) : Result := runRow (ascii "BIT 1," ++ formR8 f) f s

/-- Row `BIT 2,{R8[z]}` (R246, R251). -/
def execBit_2_r8 (f : Form) (s : State) : Result := runRow (ascii "BIT 2," ++ formR8 f) f s

/-- Row `BIT 3,{R8[z]}` (R246, R251). -/
def execBit_3_r8 (f : Form) (s : State) : Result := runRow (ascii "BIT 3," ++ formR8 f) f s

/-- Row `BIT 4,{R8[z]}` (R246, R251). -/
def execBit_4_r8 (f : Form) (s : State) : Result := runRow (ascii "BIT 4," ++ formR8 f) f s

/-- Row `BIT 5,{R8[z]}` (R246, R251). -/
def execBit_5_r8 (f : Form) (s : State) : Result := runRow (ascii "BIT 5," ++ formR8 f) f s

/-- Row `BIT 6,{R8[z]}` (R246, R251). -/
def execBit_6_r8 (f : Form) (s : State) : Result := runRow (ascii "BIT 6," ++ formR8 f) f s

/-- Row `BIT 7,{R8[z]}` (R246, R251). -/
def execBit_7_r8 (f : Form) (s : State) : Result := runRow (ascii "BIT 7," ++ formR8 f) f s

/-- Row `RES 0,{R8[z]}` (R246, R251). -/
def execRes_0_r8 (f : Form) (s : State) : Result := runRow (ascii "RES 0," ++ formR8 f) f s

/-- Row `RES 1,{R8[z]}` (R246, R251). -/
def execRes_1_r8 (f : Form) (s : State) : Result := runRow (ascii "RES 1," ++ formR8 f) f s

/-- Row `RES 2,{R8[z]}` (R246, R251). -/
def execRes_2_r8 (f : Form) (s : State) : Result := runRow (ascii "RES 2," ++ formR8 f) f s

/-- Row `RES 3,{R8[z]}` (R246, R251). -/
def execRes_3_r8 (f : Form) (s : State) : Result := runRow (ascii "RES 3," ++ formR8 f) f s

/-- Row `RES 4,{R8[z]}` (R246, R251). -/
def execRes_4_r8 (f : Form) (s : State) : Result := runRow (ascii "RES 4," ++ formR8 f) f s

/-- Row `RES 5,{R8[z]}` (R246, R251). -/
def execRes_5_r8 (f : Form) (s : State) : Result := runRow (ascii "RES 5," ++ formR8 f) f s

/-- Row `RES 6,{R8[z]}` (R246, R251). -/
def execRes_6_r8 (f : Form) (s : State) : Result := runRow (ascii "RES 6," ++ formR8 f) f s

/-- Row `RES 7,{R8[z]}` (R246, R251). -/
def execRes_7_r8 (f : Form) (s : State) : Result := runRow (ascii "RES 7," ++ formR8 f) f s

/-- Row `SET 0,{R8[z]}` (R246, R251). -/
def execSet_0_r8 (f : Form) (s : State) : Result := runRow (ascii "SET 0," ++ formR8 f) f s

/-- Row `SET 1,{R8[z]}` (R246, R251). -/
def execSet_1_r8 (f : Form) (s : State) : Result := runRow (ascii "SET 1," ++ formR8 f) f s

/-- Row `SET 2,{R8[z]}` (R246, R251). -/
def execSet_2_r8 (f : Form) (s : State) : Result := runRow (ascii "SET 2," ++ formR8 f) f s

/-- Row `SET 3,{R8[z]}` (R246, R251). -/
def execSet_3_r8 (f : Form) (s : State) : Result := runRow (ascii "SET 3," ++ formR8 f) f s

/-- Row `SET 4,{R8[z]}` (R246, R251). -/
def execSet_4_r8 (f : Form) (s : State) : Result := runRow (ascii "SET 4," ++ formR8 f) f s

/-- Row `SET 5,{R8[z]}` (R246, R251). -/
def execSet_5_r8 (f : Form) (s : State) : Result := runRow (ascii "SET 5," ++ formR8 f) f s

/-- Row `SET 6,{R8[z]}` (R246, R251). -/
def execSet_6_r8 (f : Form) (s : State) : Result := runRow (ascii "SET 6," ++ formR8 f) f s

/-- Row `SET 7,{R8[z]}` (R246, R251). -/
def execSet_7_r8 (f : Form) (s : State) : Result := runRow (ascii "SET 7," ++ formR8 f) f s

/-- Row `ADD {ireg},{RRX[p]}` (R248). -/
def execAdd_xy_rrx (f : Form) (s : State) : Result := runRow (ascii "ADD " ++ formIreg f ++ ascii "," ++ formRRX f) f s

/-- Row `LD {ireg},XXXXh` (R247). -/
def execLd_xy_word (f : Form) (s : State) : Result := runRow (ascii "LD " ++ formIreg f ++ ascii ",XXXXh") f s

/-- Row `LD (XXXXh),{ireg}` (R247). -/
def execLd_mWord_xy (f : Form) (s : State) : Result := runRow (ascii "LD (XXXXh)," ++ formIreg f) f s

/-- Row `INC {ireg}` (R247). -/
def execInc_xy (f : Form) (s : State) : Result := runRow (ascii "INC " ++ formIreg f) f s

/-- Row `LD {ireg},(XXXXh)` (R247). -/
def execLd_xy_mWord (f : Form) (s : State) : Result := runRow (ascii "LD " ++ formIreg f ++ ascii ",(XXXXh)") f s

/-- Row `DEC {ireg}` (R247). -/
def execDec_xy (f : Form) (s : State) : Result := runRow (ascii "DEC " ++ formIreg f) f s

/-- Row `INC ({ireg}+ddd)` (R247). -/
def execInc_mXYd (f : Form) (s : State) : Result := runRow (ascii "INC (" ++ formIreg f ++ ascii "+ddd)") f s

/-- Row `DEC ({ireg}+ddd)` (R247). -/
def execDec_mXYd (f : Form) (s : State) : Result := runRow (ascii "DEC (" ++ formIreg f ++ ascii "+ddd)") f s

/-- Row `LD ({ireg}+ddd),XXh` (R247). -/
def execLd_mXYd_byte (f : Form) (s : State) : Result := runRow (ascii "LD (" ++ formIreg f ++ ascii "+ddd),XXh") f s

/-- Row `LD B,({ireg}+ddd)` (R247). -/
def execLd_b_mXYd (f : Form) (s : State) : Result := runRow (ascii "LD B,(" ++ formIreg f ++ ascii "+ddd)") f s

/-- Row `LD C,({ireg}+ddd)` (R247). -/
def execLd_c_mXYd (f : Form) (s : State) : Result := runRow (ascii "LD C,(" ++ formIreg f ++ ascii "+ddd)") f s

/-- Row `LD D,({ireg}+ddd)` (R247). -/
def execLd_d_mXYd (f : Form) (s : State) : Result := runRow (ascii "LD D,(" ++ formIreg f ++ ascii "+ddd)") f s

/-- Row `LD E,({ireg}+ddd)` (R247). -/
def execLd_e_mXYd (f : Form) (s : State) : Result := runRow (ascii "LD E,(" ++ formIreg f ++ ascii "+ddd)") f s

/-- Row `LD H,({ireg}+ddd)` (R247). -/
def execLd_h_mXYd (f : Form) (s : State) : Result := runRow (ascii "LD H,(" ++ formIreg f ++ ascii "+ddd)") f s

/-- Row `LD L,({ireg}+ddd)` (R247). -/
def execLd_l_mXYd (f : Form) (s : State) : Result := runRow (ascii "LD L,(" ++ formIreg f ++ ascii "+ddd)") f s

/-- Row `LD ({ireg}+ddd),B` (R247). -/
def execLd_mXYd_b (f : Form) (s : State) : Result := runRow (ascii "LD (" ++ formIreg f ++ ascii "+ddd),B") f s

/-- Row `LD ({ireg}+ddd),C` (R247). -/
def execLd_mXYd_c (f : Form) (s : State) : Result := runRow (ascii "LD (" ++ formIreg f ++ ascii "+ddd),C") f s

/-- Row `LD ({ireg}+ddd),D` (R247). -/
def execLd_mXYd_d (f : Form) (s : State) : Result := runRow (ascii "LD (" ++ formIreg f ++ ascii "+ddd),D") f s

/-- Row `LD ({ireg}+ddd),E` (R247). -/
def execLd_mXYd_e (f : Form) (s : State) : Result := runRow (ascii "LD (" ++ formIreg f ++ ascii "+ddd),E") f s

/-- Row `LD ({ireg}+ddd),H` (R247). -/
def execLd_mXYd_h (f : Form) (s : State) : Result := runRow (ascii "LD (" ++ formIreg f ++ ascii "+ddd),H") f s

/-- Row `LD ({ireg}+ddd),L` (R247). -/
def execLd_mXYd_l (f : Form) (s : State) : Result := runRow (ascii "LD (" ++ formIreg f ++ ascii "+ddd),L") f s

/-- Row `LD ({ireg}+ddd),A` (R247). -/
def execLd_mXYd_a (f : Form) (s : State) : Result := runRow (ascii "LD (" ++ formIreg f ++ ascii "+ddd),A") f s

/-- Row `LD A,({ireg}+ddd)` (R247). -/
def execLd_a_mXYd (f : Form) (s : State) : Result := runRow (ascii "LD A,(" ++ formIreg f ++ ascii "+ddd)") f s

/-- Row `ADD A,({ireg}+ddd)` (R247). -/
def execAdd_a_mXYd (f : Form) (s : State) : Result := runRow (ascii "ADD A,(" ++ formIreg f ++ ascii "+ddd)") f s

/-- Row `ADC A,({ireg}+ddd)` (R247). -/
def execAdc_a_mXYd (f : Form) (s : State) : Result := runRow (ascii "ADC A,(" ++ formIreg f ++ ascii "+ddd)") f s

/-- Row `SUB ({ireg}+ddd)` (R247). -/
def execSub_mXYd (f : Form) (s : State) : Result := runRow (ascii "SUB (" ++ formIreg f ++ ascii "+ddd)") f s

/-- Row `SBC A,({ireg}+ddd)` (R247). -/
def execSbc_a_mXYd (f : Form) (s : State) : Result := runRow (ascii "SBC A,(" ++ formIreg f ++ ascii "+ddd)") f s

/-- Row `AND ({ireg}+ddd)` (R247). -/
def execAnd_mXYd (f : Form) (s : State) : Result := runRow (ascii "AND (" ++ formIreg f ++ ascii "+ddd)") f s

/-- Row `XOR ({ireg}+ddd)` (R247). -/
def execXor_mXYd (f : Form) (s : State) : Result := runRow (ascii "XOR (" ++ formIreg f ++ ascii "+ddd)") f s

/-- Row `OR ({ireg}+ddd)` (R247). -/
def execOr_mXYd (f : Form) (s : State) : Result := runRow (ascii "OR (" ++ formIreg f ++ ascii "+ddd)") f s

/-- Row `CP ({ireg}+ddd)` (R247). -/
def execCp_mXYd (f : Form) (s : State) : Result := runRow (ascii "CP (" ++ formIreg f ++ ascii "+ddd)") f s

/-- Row `POP {ireg}` (R247). -/
def execPop_xy (f : Form) (s : State) : Result := runRow (ascii "POP " ++ formIreg f) f s

/-- Row `EX (SP),{ireg}` (R247). -/
def execEx_mSP_xy (f : Form) (s : State) : Result := runRow (ascii "EX (SP)," ++ formIreg f) f s

/-- Row `PUSH {ireg}` (R247). -/
def execPush_xy (f : Form) (s : State) : Result := runRow (ascii "PUSH " ++ formIreg f) f s

/-- Row `JP ({ireg})` (R247). -/
def execJp_mXY (f : Form) (s : State) : Result := runRow (ascii "JP (" ++ formIreg f ++ ascii ")") f s

/-- Row `EX DE,{ireg}` (R247). -/
def execEx_de_xy (f : Form) (s : State) : Result := runRow (ascii "EX DE," ++ formIreg f) f s

/-- Row `LD SP,{ireg}` (R247). -/
def execLd_sp_xy (f : Form) (s : State) : Result := runRow (ascii "LD SP," ++ formIreg f) f s

/-- Row `LDI` (R245). -/
def execLdi (f : Form) (s : State) : Result := runRow (ascii "LDI") f s

/-- Row `CPI` (R245). -/
def execCpi (f : Form) (s : State) : Result := runRow (ascii "CPI") f s

/-- Row `INI` (R245). -/
def execIni (f : Form) (s : State) : Result := runRow (ascii "INI") f s

/-- Row `OUTI` (R245). -/
def execOuti (f : Form) (s : State) : Result := runRow (ascii "OUTI") f s

/-- Row `CPD` (R245). -/
def execCpd (f : Form) (s : State) : Result := runRow (ascii "CPD") f s

/-- Row `IND` (R245). -/
def execInd (f : Form) (s : State) : Result := runRow (ascii "IND") f s

/-- Row `OUTD` (R245). -/
def execOutd (f : Form) (s : State) : Result := runRow (ascii "OUTD") f s

/-- Row `LDIR` (R245). -/
def execLdir (f : Form) (s : State) : Result := runRow (ascii "LDIR") f s

/-- Row `CPIR` (R245). -/
def execCpir (f : Form) (s : State) : Result := runRow (ascii "CPIR") f s

/-- Row `INIR` (R245). -/
def execInir (f : Form) (s : State) : Result := runRow (ascii "INIR") f s

/-- Row `OTIR` (R245). -/
def execOtir (f : Form) (s : State) : Result := runRow (ascii "OTIR") f s

/-- Row `LDDR` (R245). -/
def execLddr (f : Form) (s : State) : Result := runRow (ascii "LDDR") f s

/-- Row `CPDR` (R245). -/
def execCpdr (f : Form) (s : State) : Result := runRow (ascii "CPDR") f s

/-- Row `INDR` (R245). -/
def execIndr (f : Form) (s : State) : Result := runRow (ascii "INDR") f s

/-- Row `OTDR` (R245). -/
def execOtdr (f : Form) (s : State) : Result := runRow (ascii "OTDR") f s

/-- Row `SBC HL,{RR[p]}` (R245). -/
def execSbc_hl_rr (f : Form) (s : State) : Result := runRow (ascii "SBC HL," ++ formRR f) f s

/-- Row `ADC HL,{RR[p]}` (R245). -/
def execAdc_hl_rr (f : Form) (s : State) : Result := runRow (ascii "ADC HL," ++ formRR f) f s

/-- Row `LD (XXXXh),{RR[p]}` (R245). -/
def execLd_mWord_rr (f : Form) (s : State) : Result := runRow (ascii "LD (XXXXh)," ++ formRR f) f s

/-- Row `LD {RR[p]},(XXXXh)` (R245). -/
def execLd_rr_mWord (f : Form) (s : State) : Result := runRow (ascii "LD " ++ formRR f ++ ascii ",(XXXXh)") f s

/-- Row `IN {R8IO[y]},(C)` (R245). -/
def execIn_r8io_mC (f : Form) (s : State) : Result := runRow (ascii "IN " ++ formR8io f ++ ascii ",(C)") f s

/-- Row `OUT (C),{R8IO[y]}` (R245). -/
def execOut_mC_r8io (f : Form) (s : State) : Result := runRow (ascii "OUT (C)," ++ formR8io f) f s

/-- Row `RETN` (R245). -/
def execRetn (f : Form) (s : State) : Result := runRow (ascii "RETN") f s

/-- Row `IM 0` (R245). -/
def execIm_0 (f : Form) (s : State) : Result := runRow (ascii "IM 0") f s

/-- Row `LD I,A` (R245). -/
def execLd_i_a (f : Form) (s : State) : Result := runRow (ascii "LD I,A") f s

/-- Row `RETI` (R245). -/
def execReti (f : Form) (s : State) : Result := runRow (ascii "RETI") f s

/-- Row `LD R,A` (R245). -/
def execLd_r_a (f : Form) (s : State) : Result := runRow (ascii "LD R,A") f s

/-- Row `IM 1` (R245). -/
def execIm_1 (f : Form) (s : State) : Result := runRow (ascii "IM 1") f s

/-- Row `LD A,I` (R245). -/
def execLd_a_i (f : Form) (s : State) : Result := runRow (ascii "LD A,I") f s

/-- Row `IM 2` (R245). -/
def execIm_2 (f : Form) (s : State) : Result := runRow (ascii "IM 2") f s

/-- Row `LD A,R` (R245). -/
def execLd_a_r (f : Form) (s : State) : Result := runRow (ascii "LD A,R") f s

/-- Row `RRD` (R245). -/
def execRrd (f : Form) (s : State) : Result := runRow (ascii "RRD") f s

/-- Row `RLD` (R245). -/
def execRld (f : Form) (s : State) : Result := runRow (ascii "RLD") f s

end Sys2Proof.Machine
end

