-- ==== Sys2Proof/Machine/Dispatch.lean ====
section
/-! DEFINITION. The dispatch of every instruction to its meaning, one arm per constructor. -/

namespace Sys2Proof.Machine

def exec (i : Instr) (s : State) : Host.Outcome State Fault Refusal :=
  match i with
  | .cmdBegin address firstByte => Sys2Proof.Machine.execCmdBegin address firstByte s
  | .cmdContinue byte => Sys2Proof.Machine.execCmdContinue byte s
  | .cmdComplete => Sys2Proof.Machine.execCmdComplete s
  | .brk f => Sys2Proof.Machine.execBrk f s
  | .oraIndX f => Sys2Proof.Machine.execOraIndX f s
  | .oraZp f => Sys2Proof.Machine.execOraZp f s
  | .aslZp f => Sys2Proof.Machine.execAslZp f s
  | .php f => Sys2Proof.Machine.execPhp f s
  | .oraImm f => Sys2Proof.Machine.execOraImm f s
  | .aslAcc f => Sys2Proof.Machine.execAslAcc f s
  | .oraAbs f => Sys2Proof.Machine.execOraAbs f s
  | .aslAbs f => Sys2Proof.Machine.execAslAbs f s
  | .bplRel f => Sys2Proof.Machine.execBplRel f s
  | .oraIndY f => Sys2Proof.Machine.execOraIndY f s
  | .oraZpX f => Sys2Proof.Machine.execOraZpX f s
  | .aslZpX f => Sys2Proof.Machine.execAslZpX f s
  | .clc f => Sys2Proof.Machine.execClc f s
  | .oraAbsY f => Sys2Proof.Machine.execOraAbsY f s
  | .oraAbsX f => Sys2Proof.Machine.execOraAbsX f s
  | .aslAbsX f => Sys2Proof.Machine.execAslAbsX f s
  | .jsrAbs f => Sys2Proof.Machine.execJsrAbs f s
  | .andIndX f => Sys2Proof.Machine.execAndIndX f s
  | .bitZp f => Sys2Proof.Machine.execBitZp f s
  | .andZp f => Sys2Proof.Machine.execAndZp f s
  | .rolZp f => Sys2Proof.Machine.execRolZp f s
  | .plp f => Sys2Proof.Machine.execPlp f s
  | .andImm f => Sys2Proof.Machine.execAndImm f s
  | .rolAcc f => Sys2Proof.Machine.execRolAcc f s
  | .bitAbs f => Sys2Proof.Machine.execBitAbs f s
  | .andAbs f => Sys2Proof.Machine.execAndAbs f s
  | .rolAbs f => Sys2Proof.Machine.execRolAbs f s
  | .bmiRel f => Sys2Proof.Machine.execBmiRel f s
  | .andIndY f => Sys2Proof.Machine.execAndIndY f s
  | .andZpX f => Sys2Proof.Machine.execAndZpX f s
  | .rolZpX f => Sys2Proof.Machine.execRolZpX f s
  | .sec f => Sys2Proof.Machine.execSec f s
  | .andAbsY f => Sys2Proof.Machine.execAndAbsY f s
  | .andAbsX f => Sys2Proof.Machine.execAndAbsX f s
  | .rolAbsX f => Sys2Proof.Machine.execRolAbsX f s
  | .rti f => Sys2Proof.Machine.execRti f s
  | .eorIndX f => Sys2Proof.Machine.execEorIndX f s
  | .eorZp f => Sys2Proof.Machine.execEorZp f s
  | .lsrZp f => Sys2Proof.Machine.execLsrZp f s
  | .pha f => Sys2Proof.Machine.execPha f s
  | .eorImm f => Sys2Proof.Machine.execEorImm f s
  | .lsrAcc f => Sys2Proof.Machine.execLsrAcc f s
  | .jmpAbs f => Sys2Proof.Machine.execJmpAbs f s
  | .eorAbs f => Sys2Proof.Machine.execEorAbs f s
  | .lsrAbs f => Sys2Proof.Machine.execLsrAbs f s
  | .bvcRel f => Sys2Proof.Machine.execBvcRel f s
  | .eorIndY f => Sys2Proof.Machine.execEorIndY f s
  | .eorZpX f => Sys2Proof.Machine.execEorZpX f s
  | .lsrZpX f => Sys2Proof.Machine.execLsrZpX f s
  | .cli f => Sys2Proof.Machine.execCli f s
  | .eorAbsY f => Sys2Proof.Machine.execEorAbsY f s
  | .eorAbsX f => Sys2Proof.Machine.execEorAbsX f s
  | .lsrAbsX f => Sys2Proof.Machine.execLsrAbsX f s
  | .rts f => Sys2Proof.Machine.execRts f s
  | .adcIndX f => Sys2Proof.Machine.execAdcIndX f s
  | .adcZp f => Sys2Proof.Machine.execAdcZp f s
  | .rorZp f => Sys2Proof.Machine.execRorZp f s
  | .pla f => Sys2Proof.Machine.execPla f s
  | .adcImm f => Sys2Proof.Machine.execAdcImm f s
  | .rorAcc f => Sys2Proof.Machine.execRorAcc f s
  | .jmpInd f => Sys2Proof.Machine.execJmpInd f s
  | .adcAbs f => Sys2Proof.Machine.execAdcAbs f s
  | .rorAbs f => Sys2Proof.Machine.execRorAbs f s
  | .bvsRel f => Sys2Proof.Machine.execBvsRel f s
  | .adcIndY f => Sys2Proof.Machine.execAdcIndY f s
  | .adcZpX f => Sys2Proof.Machine.execAdcZpX f s
  | .rorZpX f => Sys2Proof.Machine.execRorZpX f s
  | .sei f => Sys2Proof.Machine.execSei f s
  | .adcAbsY f => Sys2Proof.Machine.execAdcAbsY f s
  | .adcAbsX f => Sys2Proof.Machine.execAdcAbsX f s
  | .rorAbsX f => Sys2Proof.Machine.execRorAbsX f s
  | .staIndX f => Sys2Proof.Machine.execStaIndX f s
  | .styZp f => Sys2Proof.Machine.execStyZp f s
  | .staZp f => Sys2Proof.Machine.execStaZp f s
  | .stxZp f => Sys2Proof.Machine.execStxZp f s
  | .dey f => Sys2Proof.Machine.execDey f s
  | .txa f => Sys2Proof.Machine.execTxa f s
  | .styAbs f => Sys2Proof.Machine.execStyAbs f s
  | .staAbs f => Sys2Proof.Machine.execStaAbs f s
  | .stxAbs f => Sys2Proof.Machine.execStxAbs f s
  | .bccRel f => Sys2Proof.Machine.execBccRel f s
  | .staIndY f => Sys2Proof.Machine.execStaIndY f s
  | .styZpX f => Sys2Proof.Machine.execStyZpX f s
  | .staZpX f => Sys2Proof.Machine.execStaZpX f s
  | .stxZpY f => Sys2Proof.Machine.execStxZpY f s
  | .tya f => Sys2Proof.Machine.execTya f s
  | .staAbsY f => Sys2Proof.Machine.execStaAbsY f s
  | .txs f => Sys2Proof.Machine.execTxs f s
  | .staAbsX f => Sys2Proof.Machine.execStaAbsX f s
  | .ldyImm f => Sys2Proof.Machine.execLdyImm f s
  | .ldaIndX f => Sys2Proof.Machine.execLdaIndX f s
  | .ldxImm f => Sys2Proof.Machine.execLdxImm f s
  | .ldyZp f => Sys2Proof.Machine.execLdyZp f s
  | .ldaZp f => Sys2Proof.Machine.execLdaZp f s
  | .ldxZp f => Sys2Proof.Machine.execLdxZp f s
  | .tay f => Sys2Proof.Machine.execTay f s
  | .ldaImm f => Sys2Proof.Machine.execLdaImm f s
  | .tax f => Sys2Proof.Machine.execTax f s
  | .ldyAbs f => Sys2Proof.Machine.execLdyAbs f s
  | .ldaAbs f => Sys2Proof.Machine.execLdaAbs f s
  | .ldxAbs f => Sys2Proof.Machine.execLdxAbs f s
  | .bcsRel f => Sys2Proof.Machine.execBcsRel f s
  | .ldaIndY f => Sys2Proof.Machine.execLdaIndY f s
  | .ldyZpX f => Sys2Proof.Machine.execLdyZpX f s
  | .ldaZpX f => Sys2Proof.Machine.execLdaZpX f s
  | .ldxZpY f => Sys2Proof.Machine.execLdxZpY f s
  | .clv f => Sys2Proof.Machine.execClv f s
  | .ldaAbsY f => Sys2Proof.Machine.execLdaAbsY f s
  | .tsx f => Sys2Proof.Machine.execTsx f s
  | .ldyAbsX f => Sys2Proof.Machine.execLdyAbsX f s
  | .ldaAbsX f => Sys2Proof.Machine.execLdaAbsX f s
  | .ldxAbsY f => Sys2Proof.Machine.execLdxAbsY f s
  | .cpyImm f => Sys2Proof.Machine.execCpyImm f s
  | .cmpIndX f => Sys2Proof.Machine.execCmpIndX f s
  | .cpyZp f => Sys2Proof.Machine.execCpyZp f s
  | .cmpZp f => Sys2Proof.Machine.execCmpZp f s
  | .decZp f => Sys2Proof.Machine.execDecZp f s
  | .iny f => Sys2Proof.Machine.execIny f s
  | .cmpImm f => Sys2Proof.Machine.execCmpImm f s
  | .dex f => Sys2Proof.Machine.execDex f s
  | .cpyAbs f => Sys2Proof.Machine.execCpyAbs f s
  | .cmpAbs f => Sys2Proof.Machine.execCmpAbs f s
  | .decAbs f => Sys2Proof.Machine.execDecAbs f s
  | .bneRel f => Sys2Proof.Machine.execBneRel f s
  | .cmpIndY f => Sys2Proof.Machine.execCmpIndY f s
  | .cmpZpX f => Sys2Proof.Machine.execCmpZpX f s
  | .decZpX f => Sys2Proof.Machine.execDecZpX f s
  | .cld f => Sys2Proof.Machine.execCld f s
  | .cmpAbsY f => Sys2Proof.Machine.execCmpAbsY f s
  | .cmpAbsX f => Sys2Proof.Machine.execCmpAbsX f s
  | .decAbsX f => Sys2Proof.Machine.execDecAbsX f s
  | .cpxImm f => Sys2Proof.Machine.execCpxImm f s
  | .sbcIndX f => Sys2Proof.Machine.execSbcIndX f s
  | .cpxZp f => Sys2Proof.Machine.execCpxZp f s
  | .sbcZp f => Sys2Proof.Machine.execSbcZp f s
  | .incZp f => Sys2Proof.Machine.execIncZp f s
  | .inx f => Sys2Proof.Machine.execInx f s
  | .sbcImm f => Sys2Proof.Machine.execSbcImm f s
  | .nop f => Sys2Proof.Machine.execNop f s
  | .cpxAbs f => Sys2Proof.Machine.execCpxAbs f s
  | .sbcAbs f => Sys2Proof.Machine.execSbcAbs f s
  | .incAbs f => Sys2Proof.Machine.execIncAbs f s
  | .beqRel f => Sys2Proof.Machine.execBeqRel f s
  | .sbcIndY f => Sys2Proof.Machine.execSbcIndY f s
  | .sbcZpX f => Sys2Proof.Machine.execSbcZpX f s
  | .incZpX f => Sys2Proof.Machine.execIncZpX f s
  | .sed f => Sys2Proof.Machine.execSed f s
  | .sbcAbsY f => Sys2Proof.Machine.execSbcAbsY f s
  | .sbcAbsX f => Sys2Proof.Machine.execSbcAbsX f s
  | .incAbsX f => Sys2Proof.Machine.execIncAbsX f s
  | .unknown f => Sys2Proof.Machine.execUnknown f s
  | .tsbZp f => Sys2Proof.Machine.execTsbZp f s
  | .tsbAbs f => Sys2Proof.Machine.execTsbAbs f s
  | .oraZpInd f => Sys2Proof.Machine.execOraZpInd f s
  | .trbZp f => Sys2Proof.Machine.execTrbZp f s
  | .inc_a f => Sys2Proof.Machine.execInc_a f s
  | .trbAbs f => Sys2Proof.Machine.execTrbAbs f s
  | .andZpInd f => Sys2Proof.Machine.execAndZpInd f s
  | .bitZpX f => Sys2Proof.Machine.execBitZpX f s
  | .dec_a f => Sys2Proof.Machine.execDec_a f s
  | .bitAbsX f => Sys2Proof.Machine.execBitAbsX f s
  | .eorZpInd f => Sys2Proof.Machine.execEorZpInd f s
  | .phy f => Sys2Proof.Machine.execPhy f s
  | .stzZp f => Sys2Proof.Machine.execStzZp f s
  | .adcZpInd f => Sys2Proof.Machine.execAdcZpInd f s
  | .stzZpX f => Sys2Proof.Machine.execStzZpX f s
  | .ply f => Sys2Proof.Machine.execPly f s
  | .jmpAbsIndX f => Sys2Proof.Machine.execJmpAbsIndX f s
  | .braRel f => Sys2Proof.Machine.execBraRel f s
  | .bitImm f => Sys2Proof.Machine.execBitImm f s
  | .staZpInd f => Sys2Proof.Machine.execStaZpInd f s
  | .stzAbs f => Sys2Proof.Machine.execStzAbs f s
  | .stzAbsX f => Sys2Proof.Machine.execStzAbsX f s
  | .ldaZpInd f => Sys2Proof.Machine.execLdaZpInd f s
  | .cmpZpInd f => Sys2Proof.Machine.execCmpZpInd f s
  | .phx f => Sys2Proof.Machine.execPhx f s
  | .sbcZpInd f => Sys2Proof.Machine.execSbcZpInd f s
  | .plx f => Sys2Proof.Machine.execPlx f s
  | .tap f => Sys2Proof.Machine.execTap f s
  | .tpa f => Sys2Proof.Machine.execTpa f s
  | .sev f => Sys2Proof.Machine.execSev f s
  | .sba f => Sys2Proof.Machine.execSba f s
  | .cba f => Sys2Proof.Machine.execCba f s
  | .tab f => Sys2Proof.Machine.execTab f s
  | .tba f => Sys2Proof.Machine.execTba f s
  | .daa f => Sys2Proof.Machine.execDaa f s
  | .aba f => Sys2Proof.Machine.execAba f s
  | .bra f => Sys2Proof.Machine.execBra f s
  | .bhi f => Sys2Proof.Machine.execBhi f s
  | .bls f => Sys2Proof.Machine.execBls f s
  | .bcc f => Sys2Proof.Machine.execBcc f s
  | .bcs f => Sys2Proof.Machine.execBcs f s
  | .bne f => Sys2Proof.Machine.execBne f s
  | .beq f => Sys2Proof.Machine.execBeq f s
  | .bvc f => Sys2Proof.Machine.execBvc f s
  | .bvs f => Sys2Proof.Machine.execBvs f s
  | .bpl f => Sys2Proof.Machine.execBpl f s
  | .bmi f => Sys2Proof.Machine.execBmi f s
  | .bge f => Sys2Proof.Machine.execBge f s
  | .blt f => Sys2Proof.Machine.execBlt f s
  | .bgt f => Sys2Proof.Machine.execBgt f s
  | .ble f => Sys2Proof.Machine.execBle f s
  | .ins f => Sys2Proof.Machine.execIns f s
  | .pula f => Sys2Proof.Machine.execPula f s
  | .pulb f => Sys2Proof.Machine.execPulb f s
  | .des f => Sys2Proof.Machine.execDes f s
  | .psha f => Sys2Proof.Machine.execPsha f s
  | .pshb f => Sys2Proof.Machine.execPshb f s
  | .wai f => Sys2Proof.Machine.execWai f s
  | .swi f => Sys2Proof.Machine.execSwi f s
  | .nega f => Sys2Proof.Machine.execNega f s
  | .coma f => Sys2Proof.Machine.execComa f s
  | .lsra f => Sys2Proof.Machine.execLsra f s
  | .rora f => Sys2Proof.Machine.execRora f s
  | .asra f => Sys2Proof.Machine.execAsra f s
  | .asla f => Sys2Proof.Machine.execAsla f s
  | .rola f => Sys2Proof.Machine.execRola f s
  | .deca f => Sys2Proof.Machine.execDeca f s
  | .inca f => Sys2Proof.Machine.execInca f s
  | .tsta f => Sys2Proof.Machine.execTsta f s
  | .clra f => Sys2Proof.Machine.execClra f s
  | .negb f => Sys2Proof.Machine.execNegb f s
  | .comb f => Sys2Proof.Machine.execComb f s
  | .lsrb f => Sys2Proof.Machine.execLsrb f s
  | .rorb f => Sys2Proof.Machine.execRorb f s
  | .asrb f => Sys2Proof.Machine.execAsrb f s
  | .aslb f => Sys2Proof.Machine.execAslb f s
  | .rolb f => Sys2Proof.Machine.execRolb f s
  | .decb f => Sys2Proof.Machine.execDecb f s
  | .incb f => Sys2Proof.Machine.execIncb f s
  | .tstb f => Sys2Proof.Machine.execTstb f s
  | .clrb f => Sys2Proof.Machine.execClrb f s
  | .neg f => Sys2Proof.Machine.execNeg f s
  | .com f => Sys2Proof.Machine.execCom f s
  | .lsr f => Sys2Proof.Machine.execLsr f s
  | .ror f => Sys2Proof.Machine.execRor f s
  | .asr f => Sys2Proof.Machine.execAsr f s
  | .asl f => Sys2Proof.Machine.execAsl f s
  | .rol f => Sys2Proof.Machine.execRol f s
  | .dec f => Sys2Proof.Machine.execDec f s
  | .inc f => Sys2Proof.Machine.execInc f s
  | .tst f => Sys2Proof.Machine.execTst f s
  | .jmp f => Sys2Proof.Machine.execJmp f s
  | .clr f => Sys2Proof.Machine.execClr f s
  | .suba f => Sys2Proof.Machine.execSuba f s
  | .cmpa f => Sys2Proof.Machine.execCmpa f s
  | .sbca f => Sys2Proof.Machine.execSbca f s
  | .anda f => Sys2Proof.Machine.execAnda f s
  | .bita f => Sys2Proof.Machine.execBita f s
  | .ldaa f => Sys2Proof.Machine.execLdaa f s
  | .eora f => Sys2Proof.Machine.execEora f s
  | .adca f => Sys2Proof.Machine.execAdca f s
  | .oraa f => Sys2Proof.Machine.execOraa f s
  | .adda f => Sys2Proof.Machine.execAdda f s
  | .cpx f => Sys2Proof.Machine.execCpx f s
  | .bsr f => Sys2Proof.Machine.execBsr f s
  | .lds f => Sys2Proof.Machine.execLds f s
  | .staa f => Sys2Proof.Machine.execStaa f s
  | .sts f => Sys2Proof.Machine.execSts f s
  | .jsr f => Sys2Proof.Machine.execJsr f s
  | .subb f => Sys2Proof.Machine.execSubb f s
  | .cmpb f => Sys2Proof.Machine.execCmpb f s
  | .sbcb f => Sys2Proof.Machine.execSbcb f s
  | .andb f => Sys2Proof.Machine.execAndb f s
  | .bitb f => Sys2Proof.Machine.execBitb f s
  | .ldab f => Sys2Proof.Machine.execLdab f s
  | .eorb f => Sys2Proof.Machine.execEorb f s
  | .adcb f => Sys2Proof.Machine.execAdcb f s
  | .orab f => Sys2Proof.Machine.execOrab f s
  | .addb f => Sys2Proof.Machine.execAddb f s
  | .ldx f => Sys2Proof.Machine.execLdx f s
  | .stab f => Sys2Proof.Machine.execStab f s
  | .stx f => Sys2Proof.Machine.execStx f s
  | .lbrn f => Sys2Proof.Machine.execLbrn f s
  | .lbhi f => Sys2Proof.Machine.execLbhi f s
  | .lbls f => Sys2Proof.Machine.execLbls f s
  | .lbcc f => Sys2Proof.Machine.execLbcc f s
  | .lbcs f => Sys2Proof.Machine.execLbcs f s
  | .lbne f => Sys2Proof.Machine.execLbne f s
  | .lbeq f => Sys2Proof.Machine.execLbeq f s
  | .lbvc f => Sys2Proof.Machine.execLbvc f s
  | .lbvs f => Sys2Proof.Machine.execLbvs f s
  | .lbpl f => Sys2Proof.Machine.execLbpl f s
  | .lbmi f => Sys2Proof.Machine.execLbmi f s
  | .lbge f => Sys2Proof.Machine.execLbge f s
  | .lblt f => Sys2Proof.Machine.execLblt f s
  | .lbgt f => Sys2Proof.Machine.execLbgt f s
  | .lble f => Sys2Proof.Machine.execLble f s
  | .swi2 f => Sys2Proof.Machine.execSwi2 f s
  | .cmpd f => Sys2Proof.Machine.execCmpd f s
  | .cmpy f => Sys2Proof.Machine.execCmpy f s
  | .ldy f => Sys2Proof.Machine.execLdy f s
  | .sty f => Sys2Proof.Machine.execSty f s
  | .swi3 f => Sys2Proof.Machine.execSwi3 f s
  | .cmpu f => Sys2Proof.Machine.execCmpu f s
  | .cmps f => Sys2Proof.Machine.execCmps f s
  | .sync f => Sys2Proof.Machine.execSync f s
  | .lbra f => Sys2Proof.Machine.execLbra f s
  | .lbsr f => Sys2Proof.Machine.execLbsr f s
  | .orcc f => Sys2Proof.Machine.execOrcc f s
  | .andcc f => Sys2Proof.Machine.execAndcc f s
  | .sex f => Sys2Proof.Machine.execSex f s
  | .exg f => Sys2Proof.Machine.execExg f s
  | .tfr f => Sys2Proof.Machine.execTfr f s
  | .brn f => Sys2Proof.Machine.execBrn f s
  | .leax f => Sys2Proof.Machine.execLeax f s
  | .leay f => Sys2Proof.Machine.execLeay f s
  | .leas f => Sys2Proof.Machine.execLeas f s
  | .leau f => Sys2Proof.Machine.execLeau f s
  | .pshs f => Sys2Proof.Machine.execPshs f s
  | .puls f => Sys2Proof.Machine.execPuls f s
  | .pshu f => Sys2Proof.Machine.execPshu f s
  | .pulu f => Sys2Proof.Machine.execPulu f s
  | .abx f => Sys2Proof.Machine.execAbx f s
  | .cwai f => Sys2Proof.Machine.execCwai f s
  | .mul f => Sys2Proof.Machine.execMul f s
  | .subd f => Sys2Proof.Machine.execSubd f s
  | .lda f => Sys2Proof.Machine.execLda f s
  | .ora f => Sys2Proof.Machine.execOra f s
  | .cmpx f => Sys2Proof.Machine.execCmpx f s
  | .sta f => Sys2Proof.Machine.execSta f s
  | .addd f => Sys2Proof.Machine.execAddd f s
  | .ldb f => Sys2Proof.Machine.execLdb f s
  | .orb f => Sys2Proof.Machine.execOrb f s
  | .ldd f => Sys2Proof.Machine.execLdd f s
  | .ldu f => Sys2Proof.Machine.execLdu f s
  | .stb f => Sys2Proof.Machine.execStb f s
  | .std f => Sys2Proof.Machine.execStd f s
  | .stu f => Sys2Proof.Machine.execStu f s
  | .postIdx5 f => Sys2Proof.Machine.execPostIdx5 f s
  | .postExtInd f => Sys2Proof.Machine.execPostExtInd f s
  | .postInc1 f => Sys2Proof.Machine.execPostInc1 f s
  | .postInc2 f => Sys2Proof.Machine.execPostInc2 f s
  | .postInc2Ind f => Sys2Proof.Machine.execPostInc2Ind f s
  | .postDec1 f => Sys2Proof.Machine.execPostDec1 f s
  | .postDec2 f => Sys2Proof.Machine.execPostDec2 f s
  | .postDec2Ind f => Sys2Proof.Machine.execPostDec2Ind f s
  | .postZero f => Sys2Proof.Machine.execPostZero f s
  | .postZeroInd f => Sys2Proof.Machine.execPostZeroInd f s
  | .postAccB f => Sys2Proof.Machine.execPostAccB f s
  | .postAccBInd f => Sys2Proof.Machine.execPostAccBInd f s
  | .postAccA f => Sys2Proof.Machine.execPostAccA f s
  | .postAccAInd f => Sys2Proof.Machine.execPostAccAInd f s
  | .postConst8 f => Sys2Proof.Machine.execPostConst8 f s
  | .postConst8Ind f => Sys2Proof.Machine.execPostConst8Ind f s
  | .postConst16 f => Sys2Proof.Machine.execPostConst16 f s
  | .postConst16Ind f => Sys2Proof.Machine.execPostConst16Ind f s
  | .postAccD f => Sys2Proof.Machine.execPostAccD f s
  | .postAccDInd f => Sys2Proof.Machine.execPostAccDInd f s
  | .postPcr8 f => Sys2Proof.Machine.execPostPcr8 f s
  | .postPcr8Ind f => Sys2Proof.Machine.execPostPcr8Ind f s
  | .postPcr16 f => Sys2Proof.Machine.execPostPcr16 f s
  | .postPcr16Ind f => Sys2Proof.Machine.execPostPcr16Ind f s
  | .postInvalid f => Sys2Proof.Machine.execPostInvalid f s
  | .rlc_mXYd f => Sys2Proof.Machine.execRlc_mXYd f s
  | .rrc_mXYd f => Sys2Proof.Machine.execRrc_mXYd f s
  | .rl_mXYd f => Sys2Proof.Machine.execRl_mXYd f s
  | .rr_mXYd f => Sys2Proof.Machine.execRr_mXYd f s
  | .sla_mXYd f => Sys2Proof.Machine.execSla_mXYd f s
  | .sra_mXYd f => Sys2Proof.Machine.execSra_mXYd f s
  | .rotUnknown_mXYd f => Sys2Proof.Machine.execRotUnknown_mXYd f s
  | .srl_mXYd f => Sys2Proof.Machine.execSrl_mXYd f s
  | .bit_0_mXYd f => Sys2Proof.Machine.execBit_0_mXYd f s
  | .bit_1_mXYd f => Sys2Proof.Machine.execBit_1_mXYd f s
  | .bit_2_mXYd f => Sys2Proof.Machine.execBit_2_mXYd f s
  | .bit_3_mXYd f => Sys2Proof.Machine.execBit_3_mXYd f s
  | .bit_4_mXYd f => Sys2Proof.Machine.execBit_4_mXYd f s
  | .bit_5_mXYd f => Sys2Proof.Machine.execBit_5_mXYd f s
  | .bit_6_mXYd f => Sys2Proof.Machine.execBit_6_mXYd f s
  | .bit_7_mXYd f => Sys2Proof.Machine.execBit_7_mXYd f s
  | .res_0_mXYd f => Sys2Proof.Machine.execRes_0_mXYd f s
  | .res_1_mXYd f => Sys2Proof.Machine.execRes_1_mXYd f s
  | .res_2_mXYd f => Sys2Proof.Machine.execRes_2_mXYd f s
  | .res_3_mXYd f => Sys2Proof.Machine.execRes_3_mXYd f s
  | .res_4_mXYd f => Sys2Proof.Machine.execRes_4_mXYd f s
  | .res_5_mXYd f => Sys2Proof.Machine.execRes_5_mXYd f s
  | .res_6_mXYd f => Sys2Proof.Machine.execRes_6_mXYd f s
  | .res_7_mXYd f => Sys2Proof.Machine.execRes_7_mXYd f s
  | .set_0_mXYd f => Sys2Proof.Machine.execSet_0_mXYd f s
  | .set_1_mXYd f => Sys2Proof.Machine.execSet_1_mXYd f s
  | .set_2_mXYd f => Sys2Proof.Machine.execSet_2_mXYd f s
  | .set_3_mXYd f => Sys2Proof.Machine.execSet_3_mXYd f s
  | .set_4_mXYd f => Sys2Proof.Machine.execSet_4_mXYd f s
  | .set_5_mXYd f => Sys2Proof.Machine.execSet_5_mXYd f s
  | .set_6_mXYd f => Sys2Proof.Machine.execSet_6_mXYd f s
  | .set_7_mXYd f => Sys2Proof.Machine.execSet_7_mXYd f s
  | .rlc_r8 f => Sys2Proof.Machine.execRlc_r8 f s
  | .rrc_r8 f => Sys2Proof.Machine.execRrc_r8 f s
  | .rl_r8 f => Sys2Proof.Machine.execRl_r8 f s
  | .rr_r8 f => Sys2Proof.Machine.execRr_r8 f s
  | .sla_r8 f => Sys2Proof.Machine.execSla_r8 f s
  | .sra_r8 f => Sys2Proof.Machine.execSra_r8 f s
  | .rotUnknown_r8 f => Sys2Proof.Machine.execRotUnknown_r8 f s
  | .srl_r8 f => Sys2Proof.Machine.execSrl_r8 f s
  | .bit_0_r8 f => Sys2Proof.Machine.execBit_0_r8 f s
  | .bit_1_r8 f => Sys2Proof.Machine.execBit_1_r8 f s
  | .bit_2_r8 f => Sys2Proof.Machine.execBit_2_r8 f s
  | .bit_3_r8 f => Sys2Proof.Machine.execBit_3_r8 f s
  | .bit_4_r8 f => Sys2Proof.Machine.execBit_4_r8 f s
  | .bit_5_r8 f => Sys2Proof.Machine.execBit_5_r8 f s
  | .bit_6_r8 f => Sys2Proof.Machine.execBit_6_r8 f s
  | .bit_7_r8 f => Sys2Proof.Machine.execBit_7_r8 f s
  | .res_0_r8 f => Sys2Proof.Machine.execRes_0_r8 f s
  | .res_1_r8 f => Sys2Proof.Machine.execRes_1_r8 f s
  | .res_2_r8 f => Sys2Proof.Machine.execRes_2_r8 f s
  | .res_3_r8 f => Sys2Proof.Machine.execRes_3_r8 f s
  | .res_4_r8 f => Sys2Proof.Machine.execRes_4_r8 f s
  | .res_5_r8 f => Sys2Proof.Machine.execRes_5_r8 f s
  | .res_6_r8 f => Sys2Proof.Machine.execRes_6_r8 f s
  | .res_7_r8 f => Sys2Proof.Machine.execRes_7_r8 f s
  | .set_0_r8 f => Sys2Proof.Machine.execSet_0_r8 f s
  | .set_1_r8 f => Sys2Proof.Machine.execSet_1_r8 f s
  | .set_2_r8 f => Sys2Proof.Machine.execSet_2_r8 f s
  | .set_3_r8 f => Sys2Proof.Machine.execSet_3_r8 f s
  | .set_4_r8 f => Sys2Proof.Machine.execSet_4_r8 f s
  | .set_5_r8 f => Sys2Proof.Machine.execSet_5_r8 f s
  | .set_6_r8 f => Sys2Proof.Machine.execSet_6_r8 f s
  | .set_7_r8 f => Sys2Proof.Machine.execSet_7_r8 f s
  | .add_xy_rrx f => Sys2Proof.Machine.execAdd_xy_rrx f s
  | .ld_bc_word f => Sys2Proof.Machine.execLd_bc_word f s
  | .ld_mBC_a f => Sys2Proof.Machine.execLd_mBC_a f s
  | .inc_bc f => Sys2Proof.Machine.execInc_bc f s
  | .inc_b f => Sys2Proof.Machine.execInc_b f s
  | .dec_b f => Sys2Proof.Machine.execDec_b f s
  | .ld_b_byte f => Sys2Proof.Machine.execLd_b_byte f s
  | .rlca f => Sys2Proof.Machine.execRlca f s
  | .ex_af_afAlt f => Sys2Proof.Machine.execEx_af_afAlt f s
  | .ld_a_mBC f => Sys2Proof.Machine.execLd_a_mBC f s
  | .dec_bc f => Sys2Proof.Machine.execDec_bc f s
  | .inc_c f => Sys2Proof.Machine.execInc_c f s
  | .dec_c f => Sys2Proof.Machine.execDec_c f s
  | .ld_c_byte f => Sys2Proof.Machine.execLd_c_byte f s
  | .rrca f => Sys2Proof.Machine.execRrca f s
  | .djnz_rel f => Sys2Proof.Machine.execDjnz_rel f s
  | .ld_de_word f => Sys2Proof.Machine.execLd_de_word f s
  | .ld_mDE_a f => Sys2Proof.Machine.execLd_mDE_a f s
  | .inc_de f => Sys2Proof.Machine.execInc_de f s
  | .inc_d f => Sys2Proof.Machine.execInc_d f s
  | .dec_d f => Sys2Proof.Machine.execDec_d f s
  | .ld_d_byte f => Sys2Proof.Machine.execLd_d_byte f s
  | .rla f => Sys2Proof.Machine.execRla f s
  | .jr_rel f => Sys2Proof.Machine.execJr_rel f s
  | .ld_a_mDE f => Sys2Proof.Machine.execLd_a_mDE f s
  | .dec_de f => Sys2Proof.Machine.execDec_de f s
  | .inc_e f => Sys2Proof.Machine.execInc_e f s
  | .dec_e f => Sys2Proof.Machine.execDec_e f s
  | .ld_e_byte f => Sys2Proof.Machine.execLd_e_byte f s
  | .rra f => Sys2Proof.Machine.execRra f s
  | .jr_nz_rel f => Sys2Proof.Machine.execJr_nz_rel f s
  | .ld_xy_word f => Sys2Proof.Machine.execLd_xy_word f s
  | .ld_mWord_xy f => Sys2Proof.Machine.execLd_mWord_xy f s
  | .inc_xy f => Sys2Proof.Machine.execInc_xy f s
  | .inc_h f => Sys2Proof.Machine.execInc_h f s
  | .dec_h f => Sys2Proof.Machine.execDec_h f s
  | .ld_h_byte f => Sys2Proof.Machine.execLd_h_byte f s
  | .jr_z_rel f => Sys2Proof.Machine.execJr_z_rel f s
  | .ld_xy_mWord f => Sys2Proof.Machine.execLd_xy_mWord f s
  | .dec_xy f => Sys2Proof.Machine.execDec_xy f s
  | .inc_l f => Sys2Proof.Machine.execInc_l f s
  | .dec_l f => Sys2Proof.Machine.execDec_l f s
  | .ld_l_byte f => Sys2Proof.Machine.execLd_l_byte f s
  | .cpl f => Sys2Proof.Machine.execCpl f s
  | .jr_nc_rel f => Sys2Proof.Machine.execJr_nc_rel f s
  | .ld_sp_word f => Sys2Proof.Machine.execLd_sp_word f s
  | .ld_mWord_a f => Sys2Proof.Machine.execLd_mWord_a f s
  | .inc_sp f => Sys2Proof.Machine.execInc_sp f s
  | .inc_mXYd f => Sys2Proof.Machine.execInc_mXYd f s
  | .dec_mXYd f => Sys2Proof.Machine.execDec_mXYd f s
  | .ld_mXYd_byte f => Sys2Proof.Machine.execLd_mXYd_byte f s
  | .scf f => Sys2Proof.Machine.execScf f s
  | .jr_c_rel f => Sys2Proof.Machine.execJr_c_rel f s
  | .ld_a_mWord f => Sys2Proof.Machine.execLd_a_mWord f s
  | .dec_sp f => Sys2Proof.Machine.execDec_sp f s
  | .ld_a_byte f => Sys2Proof.Machine.execLd_a_byte f s
  | .ccf f => Sys2Proof.Machine.execCcf f s
  | .ld_b_b f => Sys2Proof.Machine.execLd_b_b f s
  | .ld_b_c f => Sys2Proof.Machine.execLd_b_c f s
  | .ld_b_d f => Sys2Proof.Machine.execLd_b_d f s
  | .ld_b_e f => Sys2Proof.Machine.execLd_b_e f s
  | .ld_b_h f => Sys2Proof.Machine.execLd_b_h f s
  | .ld_b_l f => Sys2Proof.Machine.execLd_b_l f s
  | .ld_b_mXYd f => Sys2Proof.Machine.execLd_b_mXYd f s
  | .ld_b_a f => Sys2Proof.Machine.execLd_b_a f s
  | .ld_c_b f => Sys2Proof.Machine.execLd_c_b f s
  | .ld_c_c f => Sys2Proof.Machine.execLd_c_c f s
  | .ld_c_d f => Sys2Proof.Machine.execLd_c_d f s
  | .ld_c_e f => Sys2Proof.Machine.execLd_c_e f s
  | .ld_c_h f => Sys2Proof.Machine.execLd_c_h f s
  | .ld_c_l f => Sys2Proof.Machine.execLd_c_l f s
  | .ld_c_mXYd f => Sys2Proof.Machine.execLd_c_mXYd f s
  | .ld_c_a f => Sys2Proof.Machine.execLd_c_a f s
  | .ld_d_b f => Sys2Proof.Machine.execLd_d_b f s
  | .ld_d_c f => Sys2Proof.Machine.execLd_d_c f s
  | .ld_d_d f => Sys2Proof.Machine.execLd_d_d f s
  | .ld_d_e f => Sys2Proof.Machine.execLd_d_e f s
  | .ld_d_h f => Sys2Proof.Machine.execLd_d_h f s
  | .ld_d_l f => Sys2Proof.Machine.execLd_d_l f s
  | .ld_d_mXYd f => Sys2Proof.Machine.execLd_d_mXYd f s
  | .ld_d_a f => Sys2Proof.Machine.execLd_d_a f s
  | .ld_e_b f => Sys2Proof.Machine.execLd_e_b f s
  | .ld_e_c f => Sys2Proof.Machine.execLd_e_c f s
  | .ld_e_d f => Sys2Proof.Machine.execLd_e_d f s
  | .ld_e_e f => Sys2Proof.Machine.execLd_e_e f s
  | .ld_e_h f => Sys2Proof.Machine.execLd_e_h f s
  | .ld_e_l f => Sys2Proof.Machine.execLd_e_l f s
  | .ld_e_mXYd f => Sys2Proof.Machine.execLd_e_mXYd f s
  | .ld_e_a f => Sys2Proof.Machine.execLd_e_a f s
  | .ld_h_b f => Sys2Proof.Machine.execLd_h_b f s
  | .ld_h_c f => Sys2Proof.Machine.execLd_h_c f s
  | .ld_h_d f => Sys2Proof.Machine.execLd_h_d f s
  | .ld_h_e f => Sys2Proof.Machine.execLd_h_e f s
  | .ld_h_h f => Sys2Proof.Machine.execLd_h_h f s
  | .ld_h_l f => Sys2Proof.Machine.execLd_h_l f s
  | .ld_h_mXYd f => Sys2Proof.Machine.execLd_h_mXYd f s
  | .ld_h_a f => Sys2Proof.Machine.execLd_h_a f s
  | .ld_l_b f => Sys2Proof.Machine.execLd_l_b f s
  | .ld_l_c f => Sys2Proof.Machine.execLd_l_c f s
  | .ld_l_d f => Sys2Proof.Machine.execLd_l_d f s
  | .ld_l_e f => Sys2Proof.Machine.execLd_l_e f s
  | .ld_l_h f => Sys2Proof.Machine.execLd_l_h f s
  | .ld_l_l f => Sys2Proof.Machine.execLd_l_l f s
  | .ld_l_mXYd f => Sys2Proof.Machine.execLd_l_mXYd f s
  | .ld_l_a f => Sys2Proof.Machine.execLd_l_a f s
  | .ld_mXYd_b f => Sys2Proof.Machine.execLd_mXYd_b f s
  | .ld_mXYd_c f => Sys2Proof.Machine.execLd_mXYd_c f s
  | .ld_mXYd_d f => Sys2Proof.Machine.execLd_mXYd_d f s
  | .ld_mXYd_e f => Sys2Proof.Machine.execLd_mXYd_e f s
  | .ld_mXYd_h f => Sys2Proof.Machine.execLd_mXYd_h f s
  | .ld_mXYd_l f => Sys2Proof.Machine.execLd_mXYd_l f s
  | .halt f => Sys2Proof.Machine.execHalt f s
  | .ld_mXYd_a f => Sys2Proof.Machine.execLd_mXYd_a f s
  | .ld_a_b f => Sys2Proof.Machine.execLd_a_b f s
  | .ld_a_c f => Sys2Proof.Machine.execLd_a_c f s
  | .ld_a_d f => Sys2Proof.Machine.execLd_a_d f s
  | .ld_a_e f => Sys2Proof.Machine.execLd_a_e f s
  | .ld_a_h f => Sys2Proof.Machine.execLd_a_h f s
  | .ld_a_l f => Sys2Proof.Machine.execLd_a_l f s
  | .ld_a_mXYd f => Sys2Proof.Machine.execLd_a_mXYd f s
  | .ld_a_a f => Sys2Proof.Machine.execLd_a_a f s
  | .add_a_b f => Sys2Proof.Machine.execAdd_a_b f s
  | .add_a_c f => Sys2Proof.Machine.execAdd_a_c f s
  | .add_a_d f => Sys2Proof.Machine.execAdd_a_d f s
  | .add_a_e f => Sys2Proof.Machine.execAdd_a_e f s
  | .add_a_h f => Sys2Proof.Machine.execAdd_a_h f s
  | .add_a_l f => Sys2Proof.Machine.execAdd_a_l f s
  | .add_a_mXYd f => Sys2Proof.Machine.execAdd_a_mXYd f s
  | .add_a_a f => Sys2Proof.Machine.execAdd_a_a f s
  | .adc_a_b f => Sys2Proof.Machine.execAdc_a_b f s
  | .adc_a_c f => Sys2Proof.Machine.execAdc_a_c f s
  | .adc_a_d f => Sys2Proof.Machine.execAdc_a_d f s
  | .adc_a_e f => Sys2Proof.Machine.execAdc_a_e f s
  | .adc_a_h f => Sys2Proof.Machine.execAdc_a_h f s
  | .adc_a_l f => Sys2Proof.Machine.execAdc_a_l f s
  | .adc_a_mXYd f => Sys2Proof.Machine.execAdc_a_mXYd f s
  | .adc_a_a f => Sys2Proof.Machine.execAdc_a_a f s
  | .sub_b f => Sys2Proof.Machine.execSub_b f s
  | .sub_c f => Sys2Proof.Machine.execSub_c f s
  | .sub_d f => Sys2Proof.Machine.execSub_d f s
  | .sub_e f => Sys2Proof.Machine.execSub_e f s
  | .sub_h f => Sys2Proof.Machine.execSub_h f s
  | .sub_l f => Sys2Proof.Machine.execSub_l f s
  | .sub_mXYd f => Sys2Proof.Machine.execSub_mXYd f s
  | .sub_a f => Sys2Proof.Machine.execSub_a f s
  | .sbc_a_b f => Sys2Proof.Machine.execSbc_a_b f s
  | .sbc_a_c f => Sys2Proof.Machine.execSbc_a_c f s
  | .sbc_a_d f => Sys2Proof.Machine.execSbc_a_d f s
  | .sbc_a_e f => Sys2Proof.Machine.execSbc_a_e f s
  | .sbc_a_h f => Sys2Proof.Machine.execSbc_a_h f s
  | .sbc_a_l f => Sys2Proof.Machine.execSbc_a_l f s
  | .sbc_a_mXYd f => Sys2Proof.Machine.execSbc_a_mXYd f s
  | .sbc_a_a f => Sys2Proof.Machine.execSbc_a_a f s
  | .and_b f => Sys2Proof.Machine.execAnd_b f s
  | .and_c f => Sys2Proof.Machine.execAnd_c f s
  | .and_d f => Sys2Proof.Machine.execAnd_d f s
  | .and_e f => Sys2Proof.Machine.execAnd_e f s
  | .and_h f => Sys2Proof.Machine.execAnd_h f s
  | .and_l f => Sys2Proof.Machine.execAnd_l f s
  | .and_mXYd f => Sys2Proof.Machine.execAnd_mXYd f s
  | .and_a f => Sys2Proof.Machine.execAnd_a f s
  | .xor_b f => Sys2Proof.Machine.execXor_b f s
  | .xor_c f => Sys2Proof.Machine.execXor_c f s
  | .xor_d f => Sys2Proof.Machine.execXor_d f s
  | .xor_e f => Sys2Proof.Machine.execXor_e f s
  | .xor_h f => Sys2Proof.Machine.execXor_h f s
  | .xor_l f => Sys2Proof.Machine.execXor_l f s
  | .xor_mXYd f => Sys2Proof.Machine.execXor_mXYd f s
  | .xor_a f => Sys2Proof.Machine.execXor_a f s
  | .or_b f => Sys2Proof.Machine.execOr_b f s
  | .or_c f => Sys2Proof.Machine.execOr_c f s
  | .or_d f => Sys2Proof.Machine.execOr_d f s
  | .or_e f => Sys2Proof.Machine.execOr_e f s
  | .or_h f => Sys2Proof.Machine.execOr_h f s
  | .or_l f => Sys2Proof.Machine.execOr_l f s
  | .or_mXYd f => Sys2Proof.Machine.execOr_mXYd f s
  | .or_a f => Sys2Proof.Machine.execOr_a f s
  | .cp_b f => Sys2Proof.Machine.execCp_b f s
  | .cp_c f => Sys2Proof.Machine.execCp_c f s
  | .cp_d f => Sys2Proof.Machine.execCp_d f s
  | .cp_e f => Sys2Proof.Machine.execCp_e f s
  | .cp_h f => Sys2Proof.Machine.execCp_h f s
  | .cp_l f => Sys2Proof.Machine.execCp_l f s
  | .cp_mXYd f => Sys2Proof.Machine.execCp_mXYd f s
  | .cp_a f => Sys2Proof.Machine.execCp_a f s
  | .ret_nz f => Sys2Proof.Machine.execRet_nz f s
  | .pop_bc f => Sys2Proof.Machine.execPop_bc f s
  | .jp_nz_word f => Sys2Proof.Machine.execJp_nz_word f s
  | .jp_word f => Sys2Proof.Machine.execJp_word f s
  | .call_nz_word f => Sys2Proof.Machine.execCall_nz_word f s
  | .push_bc f => Sys2Proof.Machine.execPush_bc f s
  | .add_a_byte f => Sys2Proof.Machine.execAdd_a_byte f s
  | .rst_00h f => Sys2Proof.Machine.execRst_00h f s
  | .ret_z f => Sys2Proof.Machine.execRet_z f s
  | .ret f => Sys2Proof.Machine.execRet f s
  | .jp_z_word f => Sys2Proof.Machine.execJp_z_word f s
  | .call_z_word f => Sys2Proof.Machine.execCall_z_word f s
  | .call_word f => Sys2Proof.Machine.execCall_word f s
  | .adc_a_byte f => Sys2Proof.Machine.execAdc_a_byte f s
  | .rst_08h f => Sys2Proof.Machine.execRst_08h f s
  | .ret_nc f => Sys2Proof.Machine.execRet_nc f s
  | .pop_de f => Sys2Proof.Machine.execPop_de f s
  | .jp_nc_word f => Sys2Proof.Machine.execJp_nc_word f s
  | .out_mByte_a f => Sys2Proof.Machine.execOut_mByte_a f s
  | .call_nc_word f => Sys2Proof.Machine.execCall_nc_word f s
  | .push_de f => Sys2Proof.Machine.execPush_de f s
  | .sub_byte f => Sys2Proof.Machine.execSub_byte f s
  | .rst_10h f => Sys2Proof.Machine.execRst_10h f s
  | .ret_c f => Sys2Proof.Machine.execRet_c f s
  | .exx f => Sys2Proof.Machine.execExx f s
  | .jp_c_word f => Sys2Proof.Machine.execJp_c_word f s
  | .in_a_mByte f => Sys2Proof.Machine.execIn_a_mByte f s
  | .call_c_word f => Sys2Proof.Machine.execCall_c_word f s
  | .sbc_a_byte f => Sys2Proof.Machine.execSbc_a_byte f s
  | .rst_18h f => Sys2Proof.Machine.execRst_18h f s
  | .ret_po f => Sys2Proof.Machine.execRet_po f s
  | .pop_xy f => Sys2Proof.Machine.execPop_xy f s
  | .jp_po_word f => Sys2Proof.Machine.execJp_po_word f s
  | .ex_mSP_xy f => Sys2Proof.Machine.execEx_mSP_xy f s
  | .call_po_word f => Sys2Proof.Machine.execCall_po_word f s
  | .push_xy f => Sys2Proof.Machine.execPush_xy f s
  | .and_byte f => Sys2Proof.Machine.execAnd_byte f s
  | .rst_20h f => Sys2Proof.Machine.execRst_20h f s
  | .ret_pe f => Sys2Proof.Machine.execRet_pe f s
  | .jp_mXY f => Sys2Proof.Machine.execJp_mXY f s
  | .jp_pe_word f => Sys2Proof.Machine.execJp_pe_word f s
  | .ex_de_xy f => Sys2Proof.Machine.execEx_de_xy f s
  | .call_pe_word f => Sys2Proof.Machine.execCall_pe_word f s
  | .xor_byte f => Sys2Proof.Machine.execXor_byte f s
  | .rst_28h f => Sys2Proof.Machine.execRst_28h f s
  | .ret_p f => Sys2Proof.Machine.execRet_p f s
  | .pop_af f => Sys2Proof.Machine.execPop_af f s
  | .jp_p_word f => Sys2Proof.Machine.execJp_p_word f s
  | .di f => Sys2Proof.Machine.execDi f s
  | .call_p_word f => Sys2Proof.Machine.execCall_p_word f s
  | .push_af f => Sys2Proof.Machine.execPush_af f s
  | .or_byte f => Sys2Proof.Machine.execOr_byte f s
  | .rst_30h f => Sys2Proof.Machine.execRst_30h f s
  | .ret_m f => Sys2Proof.Machine.execRet_m f s
  | .ld_sp_xy f => Sys2Proof.Machine.execLd_sp_xy f s
  | .jp_m_word f => Sys2Proof.Machine.execJp_m_word f s
  | .ei f => Sys2Proof.Machine.execEi f s
  | .call_m_word f => Sys2Proof.Machine.execCall_m_word f s
  | .cp_byte f => Sys2Proof.Machine.execCp_byte f s
  | .rst_38h f => Sys2Proof.Machine.execRst_38h f s
  | .ldi f => Sys2Proof.Machine.execLdi f s
  | .cpi f => Sys2Proof.Machine.execCpi f s
  | .ini f => Sys2Proof.Machine.execIni f s
  | .outi f => Sys2Proof.Machine.execOuti f s
  | .cpd f => Sys2Proof.Machine.execCpd f s
  | .ind f => Sys2Proof.Machine.execInd f s
  | .outd f => Sys2Proof.Machine.execOutd f s
  | .ldir f => Sys2Proof.Machine.execLdir f s
  | .cpir f => Sys2Proof.Machine.execCpir f s
  | .inir f => Sys2Proof.Machine.execInir f s
  | .otir f => Sys2Proof.Machine.execOtir f s
  | .lddr f => Sys2Proof.Machine.execLddr f s
  | .cpdr f => Sys2Proof.Machine.execCpdr f s
  | .indr f => Sys2Proof.Machine.execIndr f s
  | .otdr f => Sys2Proof.Machine.execOtdr f s
  | .sbc_hl_rr f => Sys2Proof.Machine.execSbc_hl_rr f s
  | .adc_hl_rr f => Sys2Proof.Machine.execAdc_hl_rr f s
  | .ld_mWord_rr f => Sys2Proof.Machine.execLd_mWord_rr f s
  | .ld_rr_mWord f => Sys2Proof.Machine.execLd_rr_mWord f s
  | .in_r8io_mC f => Sys2Proof.Machine.execIn_r8io_mC f s
  | .out_mC_r8io f => Sys2Proof.Machine.execOut_mC_r8io f s
  | .retn f => Sys2Proof.Machine.execRetn f s
  | .im_0 f => Sys2Proof.Machine.execIm_0 f s
  | .ld_i_a f => Sys2Proof.Machine.execLd_i_a f s
  | .reti f => Sys2Proof.Machine.execReti f s
  | .ld_r_a f => Sys2Proof.Machine.execLd_r_a f s
  | .im_1 f => Sys2Proof.Machine.execIm_1 f s
  | .ld_a_i f => Sys2Proof.Machine.execLd_a_i f s
  | .im_2 f => Sys2Proof.Machine.execIm_2 f s
  | .ld_a_r f => Sys2Proof.Machine.execLd_a_r f s
  | .rrd f => Sys2Proof.Machine.execRrd f s
  | .rld f => Sys2Proof.Machine.execRld f s
  | .add_hl_bc f => Sys2Proof.Machine.execAdd_hl_bc f s
  | .add_hl_de f => Sys2Proof.Machine.execAdd_hl_de f s
  | .ld_hl_word f => Sys2Proof.Machine.execLd_hl_word f s
  | .ld_mWord_hl f => Sys2Proof.Machine.execLd_mWord_hl f s
  | .inc_hl f => Sys2Proof.Machine.execInc_hl f s
  | .add_hl_hl f => Sys2Proof.Machine.execAdd_hl_hl f s
  | .ld_hl_mWord f => Sys2Proof.Machine.execLd_hl_mWord f s
  | .dec_hl f => Sys2Proof.Machine.execDec_hl f s
  | .inc_mHL f => Sys2Proof.Machine.execInc_mHL f s
  | .dec_mHL f => Sys2Proof.Machine.execDec_mHL f s
  | .ld_mHL_byte f => Sys2Proof.Machine.execLd_mHL_byte f s
  | .add_hl_sp f => Sys2Proof.Machine.execAdd_hl_sp f s
  | .ld_b_mHL f => Sys2Proof.Machine.execLd_b_mHL f s
  | .ld_c_mHL f => Sys2Proof.Machine.execLd_c_mHL f s
  | .ld_d_mHL f => Sys2Proof.Machine.execLd_d_mHL f s
  | .ld_e_mHL f => Sys2Proof.Machine.execLd_e_mHL f s
  | .ld_h_mHL f => Sys2Proof.Machine.execLd_h_mHL f s
  | .ld_l_mHL f => Sys2Proof.Machine.execLd_l_mHL f s
  | .ld_mHL_b f => Sys2Proof.Machine.execLd_mHL_b f s
  | .ld_mHL_c f => Sys2Proof.Machine.execLd_mHL_c f s
  | .ld_mHL_d f => Sys2Proof.Machine.execLd_mHL_d f s
  | .ld_mHL_e f => Sys2Proof.Machine.execLd_mHL_e f s
  | .ld_mHL_h f => Sys2Proof.Machine.execLd_mHL_h f s
  | .ld_mHL_l f => Sys2Proof.Machine.execLd_mHL_l f s
  | .ld_mHL_a f => Sys2Proof.Machine.execLd_mHL_a f s
  | .ld_a_mHL f => Sys2Proof.Machine.execLd_a_mHL f s
  | .add_a_mHL f => Sys2Proof.Machine.execAdd_a_mHL f s
  | .adc_a_mHL f => Sys2Proof.Machine.execAdc_a_mHL f s
  | .sub_mHL f => Sys2Proof.Machine.execSub_mHL f s
  | .sbc_a_mHL f => Sys2Proof.Machine.execSbc_a_mHL f s
  | .and_mHL f => Sys2Proof.Machine.execAnd_mHL f s
  | .xor_mHL f => Sys2Proof.Machine.execXor_mHL f s
  | .or_mHL f => Sys2Proof.Machine.execOr_mHL f s
  | .cp_mHL f => Sys2Proof.Machine.execCp_mHL f s
  | .pop_hl f => Sys2Proof.Machine.execPop_hl f s
  | .ex_mSP_hl f => Sys2Proof.Machine.execEx_mSP_hl f s
  | .push_hl f => Sys2Proof.Machine.execPush_hl f s
  | .jp_mHL f => Sys2Proof.Machine.execJp_mHL f s
  | .ex_de_hl f => Sys2Proof.Machine.execEx_de_hl f s
  | .ld_sp_hl f => Sys2Proof.Machine.execLd_sp_hl f s

end Sys2Proof.Machine
end

