-- ==== Sys2Proof/Machine/Rows.lean ====
section
/-! DEFINITION. Which row of spec/opcode_table.json an encoded form belongs to: one grid per table, sixteen entries a
line, first match of the table's ordered rows (R86). -/

namespace Sys2Proof.Machine

/-- A grid of row constructors. -/
abbrev RowGrid := List (Form → Instr)

/-- Rows of `T6502`, by opcode (R150). -/
noncomputable def rowsT6502 : RowGrid :=
   ([.brk, .oraIndX, .unknown, .unknown, .unknown, .oraZp, .aslZp, .unknown, .php, .oraImm, .aslAcc, .unknown, .unknown, .oraAbs, .aslAbs, .unknown] : RowGrid) ++
   ([.bplRel, .oraIndY, .unknown, .unknown, .unknown, .oraZpX, .aslZpX, .unknown, .clc, .oraAbsY, .unknown, .unknown, .unknown, .oraAbsX, .aslAbsX, .unknown] : RowGrid) ++
   ([.jsrAbs, .andIndX, .unknown, .unknown, .bitZp, .andZp, .rolZp, .unknown, .plp, .andImm, .rolAcc, .unknown, .bitAbs, .andAbs, .rolAbs, .unknown] : RowGrid) ++
   ([.bmiRel, .andIndY, .unknown, .unknown, .unknown, .andZpX, .rolZpX, .unknown, .sec, .andAbsY, .unknown, .unknown, .unknown, .andAbsX, .rolAbsX, .unknown] : RowGrid) ++
   ([.rti, .eorIndX, .unknown, .unknown, .unknown, .eorZp, .lsrZp, .unknown, .pha, .eorImm, .lsrAcc, .unknown, .jmpAbs, .eorAbs, .lsrAbs, .unknown] : RowGrid) ++
   ([.bvcRel, .eorIndY, .unknown, .unknown, .unknown, .eorZpX, .lsrZpX, .unknown, .cli, .eorAbsY, .unknown, .unknown, .unknown, .eorAbsX, .lsrAbsX, .unknown] : RowGrid) ++
   ([.rts, .adcIndX, .unknown, .unknown, .unknown, .adcZp, .rorZp, .unknown, .pla, .adcImm, .rorAcc, .unknown, .jmpInd, .adcAbs, .rorAbs, .unknown] : RowGrid) ++
   ([.bvsRel, .adcIndY, .unknown, .unknown, .unknown, .adcZpX, .rorZpX, .unknown, .sei, .adcAbsY, .unknown, .unknown, .unknown, .adcAbsX, .rorAbsX, .unknown] : RowGrid) ++
   ([.unknown, .staIndX, .unknown, .unknown, .styZp, .staZp, .stxZp, .unknown, .dey, .unknown, .txa, .unknown, .styAbs, .staAbs, .stxAbs, .unknown] : RowGrid) ++
   ([.bccRel, .staIndY, .unknown, .unknown, .styZpX, .staZpX, .stxZpY, .unknown, .tya, .staAbsY, .txs, .unknown, .unknown, .staAbsX, .unknown, .unknown] : RowGrid) ++
   ([.ldyImm, .ldaIndX, .ldxImm, .unknown, .ldyZp, .ldaZp, .ldxZp, .unknown, .tay, .ldaImm, .tax, .unknown, .ldyAbs, .ldaAbs, .ldxAbs, .unknown] : RowGrid) ++
   ([.bcsRel, .ldaIndY, .unknown, .unknown, .ldyZpX, .ldaZpX, .ldxZpY, .unknown, .clv, .ldaAbsY, .tsx, .unknown, .ldyAbsX, .ldaAbsX, .ldxAbsY, .unknown] : RowGrid) ++
   ([.cpyImm, .cmpIndX, .unknown, .unknown, .cpyZp, .cmpZp, .decZp, .unknown, .iny, .cmpImm, .dex, .unknown, .cpyAbs, .cmpAbs, .decAbs, .unknown] : RowGrid) ++
   ([.bneRel, .cmpIndY, .unknown, .unknown, .unknown, .cmpZpX, .decZpX, .unknown, .cld, .cmpAbsY, .unknown, .unknown, .unknown, .cmpAbsX, .decAbsX, .unknown] : RowGrid) ++
   ([.cpxImm, .sbcIndX, .unknown, .unknown, .cpxZp, .sbcZp, .incZp, .unknown, .inx, .sbcImm, .nop, .unknown, .cpxAbs, .sbcAbs, .incAbs, .unknown] : RowGrid) ++
   ([.beqRel, .sbcIndY, .unknown, .unknown, .unknown, .sbcZpX, .incZpX, .unknown, .sed, .sbcAbsY, .unknown, .unknown, .unknown, .sbcAbsX, .incAbsX, .unknown] : RowGrid)

/-- Rows of `T65C02`, by opcode (R151). -/
noncomputable def rowsT65C02 : RowGrid :=
   ([.brk, .oraIndX, .unknown, .unknown, .tsbZp, .oraZp, .aslZp, .unknown, .php, .oraImm, .aslAcc, .unknown, .tsbAbs, .oraAbs, .aslAbs, .unknown] : RowGrid) ++
   ([.bplRel, .oraIndY, .oraZpInd, .unknown, .trbZp, .oraZpX, .aslZpX, .unknown, .clc, .oraAbsY, .inc_a, .unknown, .trbAbs, .oraAbsX, .aslAbsX, .unknown] : RowGrid) ++
   ([.jsrAbs, .andIndX, .unknown, .unknown, .bitZp, .andZp, .rolZp, .unknown, .plp, .andImm, .rolAcc, .unknown, .bitAbs, .andAbs, .rolAbs, .unknown] : RowGrid) ++
   ([.bmiRel, .andIndY, .andZpInd, .unknown, .bitZpX, .andZpX, .rolZpX, .unknown, .sec, .andAbsY, .dec_a, .unknown, .bitAbsX, .andAbsX, .rolAbsX, .unknown] : RowGrid) ++
   ([.rti, .eorIndX, .unknown, .unknown, .unknown, .eorZp, .lsrZp, .unknown, .pha, .eorImm, .lsrAcc, .unknown, .jmpAbs, .eorAbs, .lsrAbs, .unknown] : RowGrid) ++
   ([.bvcRel, .eorIndY, .eorZpInd, .unknown, .unknown, .eorZpX, .lsrZpX, .unknown, .cli, .eorAbsY, .phy, .unknown, .unknown, .eorAbsX, .lsrAbsX, .unknown] : RowGrid) ++
   ([.rts, .adcIndX, .unknown, .unknown, .stzZp, .adcZp, .rorZp, .unknown, .pla, .adcImm, .rorAcc, .unknown, .jmpInd, .adcAbs, .rorAbs, .unknown] : RowGrid) ++
   ([.bvsRel, .adcIndY, .adcZpInd, .unknown, .stzZpX, .adcZpX, .rorZpX, .unknown, .sei, .adcAbsY, .ply, .unknown, .jmpAbsIndX, .adcAbsX, .rorAbsX, .unknown] : RowGrid) ++
   ([.braRel, .staIndX, .unknown, .unknown, .styZp, .staZp, .stxZp, .unknown, .dey, .bitImm, .txa, .unknown, .styAbs, .staAbs, .stxAbs, .unknown] : RowGrid) ++
   ([.bccRel, .staIndY, .staZpInd, .unknown, .styZpX, .staZpX, .stxZpY, .unknown, .tya, .staAbsY, .txs, .unknown, .stzAbs, .staAbsX, .stzAbsX, .unknown] : RowGrid) ++
   ([.ldyImm, .ldaIndX, .ldxImm, .unknown, .ldyZp, .ldaZp, .ldxZp, .unknown, .tay, .ldaImm, .tax, .unknown, .ldyAbs, .ldaAbs, .ldxAbs, .unknown] : RowGrid) ++
   ([.bcsRel, .ldaIndY, .ldaZpInd, .unknown, .ldyZpX, .ldaZpX, .ldxZpY, .unknown, .clv, .ldaAbsY, .tsx, .unknown, .ldyAbsX, .ldaAbsX, .ldxAbsY, .unknown] : RowGrid) ++
   ([.cpyImm, .cmpIndX, .unknown, .unknown, .cpyZp, .cmpZp, .decZp, .unknown, .iny, .cmpImm, .dex, .unknown, .cpyAbs, .cmpAbs, .decAbs, .unknown] : RowGrid) ++
   ([.bneRel, .cmpIndY, .cmpZpInd, .unknown, .unknown, .cmpZpX, .decZpX, .unknown, .cld, .cmpAbsY, .phx, .unknown, .unknown, .cmpAbsX, .decAbsX, .unknown] : RowGrid) ++
   ([.cpxImm, .sbcIndX, .unknown, .unknown, .cpxZp, .sbcZp, .incZp, .unknown, .inx, .sbcImm, .nop, .unknown, .cpxAbs, .sbcAbs, .incAbs, .unknown] : RowGrid) ++
   ([.beqRel, .sbcIndY, .sbcZpInd, .unknown, .unknown, .sbcZpX, .incZpX, .unknown, .sed, .sbcAbsY, .plx, .unknown, .unknown, .sbcAbsX, .incAbsX, .unknown] : RowGrid)

/-- Rows of `T6800`, by opcode (R170). -/
noncomputable def rowsT6800 : RowGrid :=
   ([.unknown, .nop, .unknown, .unknown, .unknown, .unknown, .tap, .tpa, .inx, .dex, .clv, .sev, .clc, .sec, .cli, .sei] : RowGrid) ++
   ([.sba, .cba, .unknown, .unknown, .unknown, .unknown, .tab, .tba, .unknown, .daa, .unknown, .aba, .unknown, .unknown, .unknown, .unknown] : RowGrid) ++
   ([.bra, .unknown, .bhi, .bls, .bcc, .bcs, .bne, .beq, .bvc, .bvs, .bpl, .bmi, .bge, .blt, .bgt, .ble] : RowGrid) ++
   ([.tsx, .ins, .pula, .pulb, .des, .txs, .psha, .pshb, .unknown, .rts, .unknown, .rti, .unknown, .unknown, .wai, .swi] : RowGrid) ++
   ([.nega, .unknown, .unknown, .coma, .lsra, .unknown, .rora, .asra, .asla, .rola, .deca, .unknown, .inca, .tsta, .unknown, .clra] : RowGrid) ++
   ([.negb, .unknown, .unknown, .comb, .lsrb, .unknown, .rorb, .asrb, .aslb, .rolb, .decb, .unknown, .incb, .tstb, .unknown, .clrb] : RowGrid) ++
   ([.neg, .unknown, .unknown, .com, .lsr, .unknown, .ror, .asr, .asl, .rol, .dec, .unknown, .inc, .tst, .jmp, .clr] : RowGrid) ++
   ([.neg, .unknown, .unknown, .com, .lsr, .unknown, .ror, .asr, .asl, .rol, .dec, .unknown, .inc, .tst, .jmp, .clr] : RowGrid) ++
   ([.suba, .cmpa, .sbca, .unknown, .anda, .bita, .ldaa, .unknown, .eora, .adca, .oraa, .adda, .cpx, .bsr, .lds, .unknown] : RowGrid) ++
   ([.suba, .cmpa, .sbca, .unknown, .anda, .bita, .ldaa, .staa, .eora, .adca, .oraa, .adda, .cpx, .unknown, .lds, .sts] : RowGrid) ++
   ([.suba, .cmpa, .sbca, .unknown, .anda, .bita, .ldaa, .staa, .eora, .adca, .oraa, .adda, .cpx, .jsr, .lds, .sts] : RowGrid) ++
   ([.suba, .cmpa, .sbca, .unknown, .anda, .bita, .ldaa, .staa, .eora, .adca, .oraa, .adda, .cpx, .jsr, .lds, .sts] : RowGrid) ++
   ([.subb, .cmpb, .sbcb, .unknown, .andb, .bitb, .ldab, .unknown, .eorb, .adcb, .orab, .addb, .unknown, .unknown, .ldx, .unknown] : RowGrid) ++
   ([.subb, .cmpb, .sbcb, .unknown, .andb, .bitb, .ldab, .stab, .eorb, .adcb, .orab, .addb, .unknown, .unknown, .ldx, .stx] : RowGrid) ++
   ([.subb, .cmpb, .sbcb, .unknown, .andb, .bitb, .ldab, .stab, .eorb, .adcb, .orab, .addb, .unknown, .unknown, .ldx, .stx] : RowGrid) ++
   ([.subb, .cmpb, .sbcb, .unknown, .andb, .bitb, .ldab, .stab, .eorb, .adcb, .orab, .addb, .unknown, .unknown, .ldx, .stx] : RowGrid)

/-- Rows of `T6809`, by opcode; the slots `0x10` and `0x11` are never read (R210, R230). -/
noncomputable def rowsT6809 : RowGrid :=
   ([.neg, .unknown, .unknown, .com, .lsr, .unknown, .ror, .asr, .asl, .rol, .dec, .unknown, .inc, .tst, .jmp, .clr] : RowGrid) ++
   ([.unknown, .unknown, .nop, .sync, .unknown, .unknown, .lbra, .lbsr, .unknown, .daa, .orcc, .unknown, .andcc, .sex, .exg, .tfr] : RowGrid) ++
   ([.bra, .brn, .bhi, .bls, .bcc, .bcs, .bne, .beq, .bvc, .bvs, .bpl, .bmi, .bge, .blt, .bgt, .ble] : RowGrid) ++
   ([.leax, .leay, .leas, .leau, .pshs, .puls, .pshu, .pulu, .unknown, .rts, .abx, .rti, .cwai, .mul, .unknown, .swi] : RowGrid) ++
   ([.nega, .unknown, .unknown, .coma, .lsra, .unknown, .rora, .asra, .asla, .rola, .deca, .unknown, .inca, .tsta, .unknown, .clra] : RowGrid) ++
   ([.negb, .unknown, .unknown, .comb, .lsrb, .unknown, .rorb, .asrb, .aslb, .rolb, .decb, .unknown, .incb, .tstb, .unknown, .clrb] : RowGrid) ++
   ([.neg, .unknown, .unknown, .com, .lsr, .unknown, .ror, .asr, .asl, .rol, .dec, .unknown, .inc, .tst, .jmp, .clr] : RowGrid) ++
   ([.neg, .unknown, .unknown, .com, .lsr, .unknown, .ror, .asr, .asl, .rol, .dec, .unknown, .inc, .tst, .jmp, .clr] : RowGrid) ++
   ([.suba, .cmpa, .sbca, .subd, .anda, .bita, .lda, .unknown, .eora, .adca, .ora, .adda, .cmpx, .bsr, .ldx, .unknown] : RowGrid) ++
   ([.suba, .cmpa, .sbca, .subd, .anda, .bita, .lda, .sta, .eora, .adca, .ora, .adda, .cmpx, .jsr, .ldx, .stx] : RowGrid) ++
   ([.suba, .cmpa, .sbca, .subd, .anda, .bita, .lda, .sta, .eora, .adca, .ora, .adda, .cmpx, .jsr, .ldx, .stx] : RowGrid) ++
   ([.suba, .cmpa, .sbca, .subd, .anda, .bita, .lda, .sta, .eora, .adca, .ora, .adda, .cmpx, .jsr, .ldx, .stx] : RowGrid) ++
   ([.subb, .cmpb, .sbcb, .addd, .andb, .bitb, .ldb, .unknown, .eorb, .adcb, .orb, .addb, .ldd, .unknown, .ldu, .unknown] : RowGrid) ++
   ([.subb, .cmpb, .sbcb, .addd, .andb, .bitb, .ldb, .stb, .eorb, .adcb, .orb, .addb, .ldd, .std, .ldu, .stu] : RowGrid) ++
   ([.subb, .cmpb, .sbcb, .addd, .andb, .bitb, .ldb, .stb, .eorb, .adcb, .orb, .addb, .ldd, .std, .ldu, .stu] : RowGrid) ++
   ([.subb, .cmpb, .sbcb, .addd, .andb, .bitb, .ldb, .stb, .eorb, .adcb, .orb, .addb, .ldd, .std, .ldu, .stu] : RowGrid)

/-- Rows of `T6809X` after `0x10`, by the second byte (R231). -/
noncomputable def rowsPage2 : RowGrid :=
   ([.unknown, .unknown, .unknown, .unknown, .unknown, .unknown, .unknown, .unknown, .unknown, .unknown, .unknown, .unknown, .unknown, .unknown, .unknown, .unknown] : RowGrid) ++
   ([.unknown, .unknown, .unknown, .unknown, .unknown, .unknown, .unknown, .unknown, .unknown, .unknown, .unknown, .unknown, .unknown, .unknown, .unknown, .unknown] : RowGrid) ++
   ([.unknown, .lbrn, .lbhi, .lbls, .lbcc, .lbcs, .lbne, .lbeq, .lbvc, .lbvs, .lbpl, .lbmi, .lbge, .lblt, .lbgt, .lble] : RowGrid) ++
   ([.unknown, .unknown, .unknown, .unknown, .unknown, .unknown, .unknown, .unknown, .unknown, .unknown, .unknown, .unknown, .unknown, .unknown, .unknown, .swi2] : RowGrid) ++
   ([.unknown, .unknown, .unknown, .unknown, .unknown, .unknown, .unknown, .unknown, .unknown, .unknown, .unknown, .unknown, .unknown, .unknown, .unknown, .unknown] : RowGrid) ++
   ([.unknown, .unknown, .unknown, .unknown, .unknown, .unknown, .unknown, .unknown, .unknown, .unknown, .unknown, .unknown, .unknown, .unknown, .unknown, .unknown] : RowGrid) ++
   ([.unknown, .unknown, .unknown, .unknown, .unknown, .unknown, .unknown, .unknown, .unknown, .unknown, .unknown, .unknown, .unknown, .unknown, .unknown, .unknown] : RowGrid) ++
   ([.unknown, .unknown, .unknown, .unknown, .unknown, .unknown, .unknown, .unknown, .unknown, .unknown, .unknown, .unknown, .unknown, .unknown, .unknown, .unknown] : RowGrid) ++
   ([.unknown, .unknown, .unknown, .cmpd, .unknown, .unknown, .unknown, .unknown, .unknown, .unknown, .unknown, .unknown, .cmpy, .unknown, .ldy, .unknown] : RowGrid) ++
   ([.unknown, .unknown, .unknown, .cmpd, .unknown, .unknown, .unknown, .unknown, .unknown, .unknown, .unknown, .unknown, .cmpy, .unknown, .ldy, .sty] : RowGrid) ++
   ([.unknown, .unknown, .unknown, .cmpd, .unknown, .unknown, .unknown, .unknown, .unknown, .unknown, .unknown, .unknown, .cmpy, .unknown, .ldy, .sty] : RowGrid) ++
   ([.unknown, .unknown, .unknown, .cmpd, .unknown, .unknown, .unknown, .unknown, .unknown, .unknown, .unknown, .unknown, .cmpy, .unknown, .ldy, .sty] : RowGrid) ++
   ([.unknown, .unknown, .unknown, .unknown, .unknown, .unknown, .unknown, .unknown, .unknown, .unknown, .unknown, .unknown, .unknown, .unknown, .lds, .unknown] : RowGrid) ++
   ([.unknown, .unknown, .unknown, .unknown, .unknown, .unknown, .unknown, .unknown, .unknown, .unknown, .unknown, .unknown, .unknown, .unknown, .lds, .sts] : RowGrid) ++
   ([.unknown, .unknown, .unknown, .unknown, .unknown, .unknown, .unknown, .unknown, .unknown, .unknown, .unknown, .unknown, .unknown, .unknown, .lds, .sts] : RowGrid) ++
   ([.unknown, .unknown, .unknown, .unknown, .unknown, .unknown, .unknown, .unknown, .unknown, .unknown, .unknown, .unknown, .unknown, .unknown, .lds, .sts] : RowGrid)

/-- Rows of `T6809X` after `0x11`, by the second byte (R231). -/
noncomputable def rowsPage3 : RowGrid :=
   ([.unknown, .unknown, .unknown, .unknown, .unknown, .unknown, .unknown, .unknown, .unknown, .unknown, .unknown, .unknown, .unknown, .unknown, .unknown, .unknown] : RowGrid) ++
   ([.unknown, .unknown, .unknown, .unknown, .unknown, .unknown, .unknown, .unknown, .unknown, .unknown, .unknown, .unknown, .unknown, .unknown, .unknown, .unknown] : RowGrid) ++
   ([.unknown, .unknown, .unknown, .unknown, .unknown, .unknown, .unknown, .unknown, .unknown, .unknown, .unknown, .unknown, .unknown, .unknown, .unknown, .unknown] : RowGrid) ++
   ([.unknown, .unknown, .unknown, .unknown, .unknown, .unknown, .unknown, .unknown, .unknown, .unknown, .unknown, .unknown, .unknown, .unknown, .unknown, .swi3] : RowGrid) ++
   ([.unknown, .unknown, .unknown, .unknown, .unknown, .unknown, .unknown, .unknown, .unknown, .unknown, .unknown, .unknown, .unknown, .unknown, .unknown, .unknown] : RowGrid) ++
   ([.unknown, .unknown, .unknown, .unknown, .unknown, .unknown, .unknown, .unknown, .unknown, .unknown, .unknown, .unknown, .unknown, .unknown, .unknown, .unknown] : RowGrid) ++
   ([.unknown, .unknown, .unknown, .unknown, .unknown, .unknown, .unknown, .unknown, .unknown, .unknown, .unknown, .unknown, .unknown, .unknown, .unknown, .unknown] : RowGrid) ++
   ([.unknown, .unknown, .unknown, .unknown, .unknown, .unknown, .unknown, .unknown, .unknown, .unknown, .unknown, .unknown, .unknown, .unknown, .unknown, .unknown] : RowGrid) ++
   ([.unknown, .unknown, .unknown, .cmpu, .unknown, .unknown, .unknown, .unknown, .unknown, .unknown, .unknown, .unknown, .cmps, .unknown, .unknown, .unknown] : RowGrid) ++
   ([.unknown, .unknown, .unknown, .cmpu, .unknown, .unknown, .unknown, .unknown, .unknown, .unknown, .unknown, .unknown, .cmps, .unknown, .unknown, .unknown] : RowGrid) ++
   ([.unknown, .unknown, .unknown, .cmpu, .unknown, .unknown, .unknown, .unknown, .unknown, .unknown, .unknown, .unknown, .cmps, .unknown, .unknown, .unknown] : RowGrid) ++
   ([.unknown, .unknown, .unknown, .cmpu, .unknown, .unknown, .unknown, .unknown, .unknown, .unknown, .unknown, .unknown, .cmps, .unknown, .unknown, .unknown] : RowGrid) ++
   ([.unknown, .unknown, .unknown, .unknown, .unknown, .unknown, .unknown, .unknown, .unknown, .unknown, .unknown, .unknown, .unknown, .unknown, .unknown, .unknown] : RowGrid) ++
   ([.unknown, .unknown, .unknown, .unknown, .unknown, .unknown, .unknown, .unknown, .unknown, .unknown, .unknown, .unknown, .unknown, .unknown, .unknown, .unknown] : RowGrid) ++
   ([.unknown, .unknown, .unknown, .unknown, .unknown, .unknown, .unknown, .unknown, .unknown, .unknown, .unknown, .unknown, .unknown, .unknown, .unknown, .unknown] : RowGrid) ++
   ([.unknown, .unknown, .unknown, .unknown, .unknown, .unknown, .unknown, .unknown, .unknown, .unknown, .unknown, .unknown, .unknown, .unknown, .unknown, .unknown] : RowGrid)

/-- Rows of `TZ80` unprefixed, by opcode; the four prefix slots are never read there (R243, R280). -/
noncomputable def rowsTZ80 : RowGrid :=
   ([.nop, .ld_bc_word, .ld_mBC_a, .inc_bc, .inc_b, .dec_b, .ld_b_byte, .rlca, .ex_af_afAlt, .add_hl_bc, .ld_a_mBC, .dec_bc, .inc_c, .dec_c, .ld_c_byte, .rrca] : RowGrid) ++
   ([.djnz_rel, .ld_de_word, .ld_mDE_a, .inc_de, .inc_d, .dec_d, .ld_d_byte, .rla, .jr_rel, .add_hl_de, .ld_a_mDE, .dec_de, .inc_e, .dec_e, .ld_e_byte, .rra] : RowGrid) ++
   ([.jr_nz_rel, .ld_hl_word, .ld_mWord_hl, .inc_hl, .inc_h, .dec_h, .ld_h_byte, .daa, .jr_z_rel, .add_hl_hl, .ld_hl_mWord, .dec_hl, .inc_l, .dec_l, .ld_l_byte, .cpl] : RowGrid) ++
   ([.jr_nc_rel, .ld_sp_word, .ld_mWord_a, .inc_sp, .inc_mHL, .dec_mHL, .ld_mHL_byte, .scf, .jr_c_rel, .add_hl_sp, .ld_a_mWord, .dec_sp, .inc_a, .dec_a, .ld_a_byte, .ccf] : RowGrid) ++
   ([.ld_b_b, .ld_b_c, .ld_b_d, .ld_b_e, .ld_b_h, .ld_b_l, .ld_b_mHL, .ld_b_a, .ld_c_b, .ld_c_c, .ld_c_d, .ld_c_e, .ld_c_h, .ld_c_l, .ld_c_mHL, .ld_c_a] : RowGrid) ++
   ([.ld_d_b, .ld_d_c, .ld_d_d, .ld_d_e, .ld_d_h, .ld_d_l, .ld_d_mHL, .ld_d_a, .ld_e_b, .ld_e_c, .ld_e_d, .ld_e_e, .ld_e_h, .ld_e_l, .ld_e_mHL, .ld_e_a] : RowGrid) ++
   ([.ld_h_b, .ld_h_c, .ld_h_d, .ld_h_e, .ld_h_h, .ld_h_l, .ld_h_mHL, .ld_h_a, .ld_l_b, .ld_l_c, .ld_l_d, .ld_l_e, .ld_l_h, .ld_l_l, .ld_l_mHL, .ld_l_a] : RowGrid) ++
   ([.ld_mHL_b, .ld_mHL_c, .ld_mHL_d, .ld_mHL_e, .ld_mHL_h, .ld_mHL_l, .halt, .ld_mHL_a, .ld_a_b, .ld_a_c, .ld_a_d, .ld_a_e, .ld_a_h, .ld_a_l, .ld_a_mHL, .ld_a_a] : RowGrid) ++
   ([.add_a_b, .add_a_c, .add_a_d, .add_a_e, .add_a_h, .add_a_l, .add_a_mHL, .add_a_a, .adc_a_b, .adc_a_c, .adc_a_d, .adc_a_e, .adc_a_h, .adc_a_l, .adc_a_mHL, .adc_a_a] : RowGrid) ++
   ([.sub_b, .sub_c, .sub_d, .sub_e, .sub_h, .sub_l, .sub_mHL, .sub_a, .sbc_a_b, .sbc_a_c, .sbc_a_d, .sbc_a_e, .sbc_a_h, .sbc_a_l, .sbc_a_mHL, .sbc_a_a] : RowGrid) ++
   ([.and_b, .and_c, .and_d, .and_e, .and_h, .and_l, .and_mHL, .and_a, .xor_b, .xor_c, .xor_d, .xor_e, .xor_h, .xor_l, .xor_mHL, .xor_a] : RowGrid) ++
   ([.or_b, .or_c, .or_d, .or_e, .or_h, .or_l, .or_mHL, .or_a, .cp_b, .cp_c, .cp_d, .cp_e, .cp_h, .cp_l, .cp_mHL, .cp_a] : RowGrid) ++
   ([.ret_nz, .pop_bc, .jp_nz_word, .jp_word, .call_nz_word, .push_bc, .add_a_byte, .rst_00h, .ret_z, .ret, .jp_z_word, .unknown, .call_z_word, .call_word, .adc_a_byte, .rst_08h] : RowGrid) ++
   ([.ret_nc, .pop_de, .jp_nc_word, .out_mByte_a, .call_nc_word, .push_de, .sub_byte, .rst_10h, .ret_c, .exx, .jp_c_word, .in_a_mByte, .call_c_word, .unknown, .sbc_a_byte, .rst_18h] : RowGrid) ++
   ([.ret_po, .pop_hl, .jp_po_word, .ex_mSP_hl, .call_po_word, .push_hl, .and_byte, .rst_20h, .ret_pe, .jp_mHL, .jp_pe_word, .ex_de_hl, .call_pe_word, .unknown, .xor_byte, .rst_28h] : RowGrid) ++
   ([.ret_p, .pop_af, .jp_p_word, .di, .call_p_word, .push_af, .or_byte, .rst_30h, .ret_m, .ld_sp_hl, .jp_m_word, .ei, .call_m_word, .unknown, .cp_byte, .rst_38h] : RowGrid)

/-- Rows of the `CB` space, by the second byte (R246). -/
noncomputable def rowsCB : RowGrid :=
   ([.rlc_r8, .rlc_r8, .rlc_r8, .rlc_r8, .rlc_r8, .rlc_r8, .rlc_r8, .rlc_r8, .rrc_r8, .rrc_r8, .rrc_r8, .rrc_r8, .rrc_r8, .rrc_r8, .rrc_r8, .rrc_r8] : RowGrid) ++
   ([.rl_r8, .rl_r8, .rl_r8, .rl_r8, .rl_r8, .rl_r8, .rl_r8, .rl_r8, .rr_r8, .rr_r8, .rr_r8, .rr_r8, .rr_r8, .rr_r8, .rr_r8, .rr_r8] : RowGrid) ++
   ([.sla_r8, .sla_r8, .sla_r8, .sla_r8, .sla_r8, .sla_r8, .sla_r8, .sla_r8, .sra_r8, .sra_r8, .sra_r8, .sra_r8, .sra_r8, .sra_r8, .sra_r8, .sra_r8] : RowGrid) ++
   ([.rotUnknown_r8, .rotUnknown_r8, .rotUnknown_r8, .rotUnknown_r8, .rotUnknown_r8, .rotUnknown_r8, .rotUnknown_r8, .rotUnknown_r8, .srl_r8, .srl_r8, .srl_r8, .srl_r8, .srl_r8, .srl_r8, .srl_r8, .srl_r8] : RowGrid) ++
   ([.bit_0_r8, .bit_0_r8, .bit_0_r8, .bit_0_r8, .bit_0_r8, .bit_0_r8, .bit_0_r8, .bit_0_r8, .bit_1_r8, .bit_1_r8, .bit_1_r8, .bit_1_r8, .bit_1_r8, .bit_1_r8, .bit_1_r8, .bit_1_r8] : RowGrid) ++
   ([.bit_2_r8, .bit_2_r8, .bit_2_r8, .bit_2_r8, .bit_2_r8, .bit_2_r8, .bit_2_r8, .bit_2_r8, .bit_3_r8, .bit_3_r8, .bit_3_r8, .bit_3_r8, .bit_3_r8, .bit_3_r8, .bit_3_r8, .bit_3_r8] : RowGrid) ++
   ([.bit_4_r8, .bit_4_r8, .bit_4_r8, .bit_4_r8, .bit_4_r8, .bit_4_r8, .bit_4_r8, .bit_4_r8, .bit_5_r8, .bit_5_r8, .bit_5_r8, .bit_5_r8, .bit_5_r8, .bit_5_r8, .bit_5_r8, .bit_5_r8] : RowGrid) ++
   ([.bit_6_r8, .bit_6_r8, .bit_6_r8, .bit_6_r8, .bit_6_r8, .bit_6_r8, .bit_6_r8, .bit_6_r8, .bit_7_r8, .bit_7_r8, .bit_7_r8, .bit_7_r8, .bit_7_r8, .bit_7_r8, .bit_7_r8, .bit_7_r8] : RowGrid) ++
   ([.res_0_r8, .res_0_r8, .res_0_r8, .res_0_r8, .res_0_r8, .res_0_r8, .res_0_r8, .res_0_r8, .res_1_r8, .res_1_r8, .res_1_r8, .res_1_r8, .res_1_r8, .res_1_r8, .res_1_r8, .res_1_r8] : RowGrid) ++
   ([.res_2_r8, .res_2_r8, .res_2_r8, .res_2_r8, .res_2_r8, .res_2_r8, .res_2_r8, .res_2_r8, .res_3_r8, .res_3_r8, .res_3_r8, .res_3_r8, .res_3_r8, .res_3_r8, .res_3_r8, .res_3_r8] : RowGrid) ++
   ([.res_4_r8, .res_4_r8, .res_4_r8, .res_4_r8, .res_4_r8, .res_4_r8, .res_4_r8, .res_4_r8, .res_5_r8, .res_5_r8, .res_5_r8, .res_5_r8, .res_5_r8, .res_5_r8, .res_5_r8, .res_5_r8] : RowGrid) ++
   ([.res_6_r8, .res_6_r8, .res_6_r8, .res_6_r8, .res_6_r8, .res_6_r8, .res_6_r8, .res_6_r8, .res_7_r8, .res_7_r8, .res_7_r8, .res_7_r8, .res_7_r8, .res_7_r8, .res_7_r8, .res_7_r8] : RowGrid) ++
   ([.set_0_r8, .set_0_r8, .set_0_r8, .set_0_r8, .set_0_r8, .set_0_r8, .set_0_r8, .set_0_r8, .set_1_r8, .set_1_r8, .set_1_r8, .set_1_r8, .set_1_r8, .set_1_r8, .set_1_r8, .set_1_r8] : RowGrid) ++
   ([.set_2_r8, .set_2_r8, .set_2_r8, .set_2_r8, .set_2_r8, .set_2_r8, .set_2_r8, .set_2_r8, .set_3_r8, .set_3_r8, .set_3_r8, .set_3_r8, .set_3_r8, .set_3_r8, .set_3_r8, .set_3_r8] : RowGrid) ++
   ([.set_4_r8, .set_4_r8, .set_4_r8, .set_4_r8, .set_4_r8, .set_4_r8, .set_4_r8, .set_4_r8, .set_5_r8, .set_5_r8, .set_5_r8, .set_5_r8, .set_5_r8, .set_5_r8, .set_5_r8, .set_5_r8] : RowGrid) ++
   ([.set_6_r8, .set_6_r8, .set_6_r8, .set_6_r8, .set_6_r8, .set_6_r8, .set_6_r8, .set_6_r8, .set_7_r8, .set_7_r8, .set_7_r8, .set_7_r8, .set_7_r8, .set_7_r8, .set_7_r8, .set_7_r8] : RowGrid)

/-- Rows of the `ED` space, by the second byte (R245). -/
noncomputable def rowsED : RowGrid :=
   ([.unknown, .unknown, .unknown, .unknown, .unknown, .unknown, .unknown, .unknown, .unknown, .unknown, .unknown, .unknown, .unknown, .unknown, .unknown, .unknown] : RowGrid) ++
   ([.unknown, .unknown, .unknown, .unknown, .unknown, .unknown, .unknown, .unknown, .unknown, .unknown, .unknown, .unknown, .unknown, .unknown, .unknown, .unknown] : RowGrid) ++
   ([.unknown, .unknown, .unknown, .unknown, .unknown, .unknown, .unknown, .unknown, .unknown, .unknown, .unknown, .unknown, .unknown, .unknown, .unknown, .unknown] : RowGrid) ++
   ([.unknown, .unknown, .unknown, .unknown, .unknown, .unknown, .unknown, .unknown, .unknown, .unknown, .unknown, .unknown, .unknown, .unknown, .unknown, .unknown] : RowGrid) ++
   ([.in_r8io_mC, .out_mC_r8io, .sbc_hl_rr, .ld_mWord_rr, .neg, .retn, .im_0, .ld_i_a, .in_r8io_mC, .out_mC_r8io, .adc_hl_rr, .ld_rr_mWord, .unknown, .reti, .unknown, .ld_r_a] : RowGrid) ++
   ([.in_r8io_mC, .out_mC_r8io, .sbc_hl_rr, .ld_mWord_rr, .unknown, .unknown, .im_1, .ld_a_i, .in_r8io_mC, .out_mC_r8io, .adc_hl_rr, .ld_rr_mWord, .unknown, .unknown, .im_2, .ld_a_r] : RowGrid) ++
   ([.in_r8io_mC, .out_mC_r8io, .sbc_hl_rr, .ld_mWord_rr, .unknown, .unknown, .unknown, .rrd, .in_r8io_mC, .out_mC_r8io, .adc_hl_rr, .ld_rr_mWord, .unknown, .unknown, .unknown, .rld] : RowGrid) ++
   ([.in_r8io_mC, .out_mC_r8io, .sbc_hl_rr, .ld_mWord_rr, .unknown, .unknown, .unknown, .unknown, .in_r8io_mC, .out_mC_r8io, .adc_hl_rr, .ld_rr_mWord, .unknown, .unknown, .unknown, .unknown] : RowGrid) ++
   ([.unknown, .unknown, .unknown, .unknown, .unknown, .unknown, .unknown, .unknown, .unknown, .unknown, .unknown, .unknown, .unknown, .unknown, .unknown, .unknown] : RowGrid) ++
   ([.unknown, .unknown, .unknown, .unknown, .unknown, .unknown, .unknown, .unknown, .unknown, .unknown, .unknown, .unknown, .unknown, .unknown, .unknown, .unknown] : RowGrid) ++
   ([.ldi, .cpi, .ini, .outi, .unknown, .unknown, .unknown, .unknown, .ldd, .cpd, .ind, .outd, .unknown, .unknown, .unknown, .unknown] : RowGrid) ++
   ([.ldir, .cpir, .inir, .otir, .unknown, .unknown, .unknown, .unknown, .lddr, .cpdr, .indr, .otdr, .unknown, .unknown, .unknown, .unknown] : RowGrid) ++
   ([.unknown, .unknown, .unknown, .unknown, .unknown, .unknown, .unknown, .unknown, .unknown, .unknown, .unknown, .unknown, .unknown, .unknown, .unknown, .unknown] : RowGrid) ++
   ([.unknown, .unknown, .unknown, .unknown, .unknown, .unknown, .unknown, .unknown, .unknown, .unknown, .unknown, .unknown, .unknown, .unknown, .unknown, .unknown] : RowGrid) ++
   ([.unknown, .unknown, .unknown, .unknown, .unknown, .unknown, .unknown, .unknown, .unknown, .unknown, .unknown, .unknown, .unknown, .unknown, .unknown, .unknown] : RowGrid) ++
   ([.unknown, .unknown, .unknown, .unknown, .unknown, .unknown, .unknown, .unknown, .unknown, .unknown, .unknown, .unknown, .unknown, .unknown, .unknown, .unknown] : RowGrid)

/-- Rows of `DD` or `FD` and one opcode, by the second byte; `0xCB` opens the compound form (R247, R248, R252). -/
noncomputable def rowsXY : RowGrid :=
   ([.nop, .ld_bc_word, .ld_mBC_a, .inc_bc, .inc_b, .dec_b, .ld_b_byte, .rlca, .ex_af_afAlt, .add_xy_rrx, .ld_a_mBC, .dec_bc, .inc_c, .dec_c, .ld_c_byte, .rrca] : RowGrid) ++
   ([.djnz_rel, .ld_de_word, .ld_mDE_a, .inc_de, .inc_d, .dec_d, .ld_d_byte, .rla, .jr_rel, .add_xy_rrx, .ld_a_mDE, .dec_de, .inc_e, .dec_e, .ld_e_byte, .rra] : RowGrid) ++
   ([.jr_nz_rel, .ld_xy_word, .ld_mWord_xy, .inc_xy, .inc_h, .dec_h, .ld_h_byte, .daa, .jr_z_rel, .add_xy_rrx, .ld_xy_mWord, .dec_xy, .inc_l, .dec_l, .ld_l_byte, .cpl] : RowGrid) ++
   ([.jr_nc_rel, .ld_sp_word, .ld_mWord_a, .inc_sp, .inc_mXYd, .dec_mXYd, .ld_mXYd_byte, .scf, .jr_c_rel, .add_xy_rrx, .ld_a_mWord, .dec_sp, .inc_a, .dec_a, .ld_a_byte, .ccf] : RowGrid) ++
   ([.ld_b_b, .ld_b_c, .ld_b_d, .ld_b_e, .ld_b_h, .ld_b_l, .ld_b_mXYd, .ld_b_a, .ld_c_b, .ld_c_c, .ld_c_d, .ld_c_e, .ld_c_h, .ld_c_l, .ld_c_mXYd, .ld_c_a] : RowGrid) ++
   ([.ld_d_b, .ld_d_c, .ld_d_d, .ld_d_e, .ld_d_h, .ld_d_l, .ld_d_mXYd, .ld_d_a, .ld_e_b, .ld_e_c, .ld_e_d, .ld_e_e, .ld_e_h, .ld_e_l, .ld_e_mXYd, .ld_e_a] : RowGrid) ++
   ([.ld_h_b, .ld_h_c, .ld_h_d, .ld_h_e, .ld_h_h, .ld_h_l, .ld_h_mXYd, .ld_h_a, .ld_l_b, .ld_l_c, .ld_l_d, .ld_l_e, .ld_l_h, .ld_l_l, .ld_l_mXYd, .ld_l_a] : RowGrid) ++
   ([.ld_mXYd_b, .ld_mXYd_c, .ld_mXYd_d, .ld_mXYd_e, .ld_mXYd_h, .ld_mXYd_l, .halt, .ld_mXYd_a, .ld_a_b, .ld_a_c, .ld_a_d, .ld_a_e, .ld_a_h, .ld_a_l, .ld_a_mXYd, .ld_a_a] : RowGrid) ++
   ([.add_a_b, .add_a_c, .add_a_d, .add_a_e, .add_a_h, .add_a_l, .add_a_mXYd, .add_a_a, .adc_a_b, .adc_a_c, .adc_a_d, .adc_a_e, .adc_a_h, .adc_a_l, .adc_a_mXYd, .adc_a_a] : RowGrid) ++
   ([.sub_b, .sub_c, .sub_d, .sub_e, .sub_h, .sub_l, .sub_mXYd, .sub_a, .sbc_a_b, .sbc_a_c, .sbc_a_d, .sbc_a_e, .sbc_a_h, .sbc_a_l, .sbc_a_mXYd, .sbc_a_a] : RowGrid) ++
   ([.and_b, .and_c, .and_d, .and_e, .and_h, .and_l, .and_mXYd, .and_a, .xor_b, .xor_c, .xor_d, .xor_e, .xor_h, .xor_l, .xor_mXYd, .xor_a] : RowGrid) ++
   ([.or_b, .or_c, .or_d, .or_e, .or_h, .or_l, .or_mXYd, .or_a, .cp_b, .cp_c, .cp_d, .cp_e, .cp_h, .cp_l, .cp_mXYd, .cp_a] : RowGrid) ++
   ([.ret_nz, .pop_bc, .jp_nz_word, .jp_word, .call_nz_word, .push_bc, .add_a_byte, .rst_00h, .ret_z, .ret, .jp_z_word, .unknown, .call_z_word, .call_word, .adc_a_byte, .rst_08h] : RowGrid) ++
   ([.ret_nc, .pop_de, .jp_nc_word, .out_mByte_a, .call_nc_word, .push_de, .sub_byte, .rst_10h, .ret_c, .exx, .jp_c_word, .in_a_mByte, .call_c_word, .unknown, .sbc_a_byte, .rst_18h] : RowGrid) ++
   ([.ret_po, .pop_xy, .jp_po_word, .ex_mSP_xy, .call_po_word, .push_xy, .and_byte, .rst_20h, .ret_pe, .jp_mXY, .jp_pe_word, .ex_de_xy, .call_pe_word, .unknown, .xor_byte, .rst_28h] : RowGrid) ++
   ([.ret_p, .pop_af, .jp_p_word, .di, .call_p_word, .push_af, .or_byte, .rst_30h, .ret_m, .ld_sp_xy, .jp_m_word, .ei, .call_m_word, .unknown, .cp_byte, .rst_38h] : RowGrid)

/-- Rows of `DD CB` and `FD CB`, by the fourth byte (R251). -/
noncomputable def rowsXYCB : RowGrid :=
   ([.rlc_r8, .rlc_r8, .rlc_r8, .rlc_r8, .rlc_r8, .rlc_r8, .rlc_mXYd, .rlc_r8, .rrc_r8, .rrc_r8, .rrc_r8, .rrc_r8, .rrc_r8, .rrc_r8, .rrc_mXYd, .rrc_r8] : RowGrid) ++
   ([.rl_r8, .rl_r8, .rl_r8, .rl_r8, .rl_r8, .rl_r8, .rl_mXYd, .rl_r8, .rr_r8, .rr_r8, .rr_r8, .rr_r8, .rr_r8, .rr_r8, .rr_mXYd, .rr_r8] : RowGrid) ++
   ([.sla_r8, .sla_r8, .sla_r8, .sla_r8, .sla_r8, .sla_r8, .sla_mXYd, .sla_r8, .sra_r8, .sra_r8, .sra_r8, .sra_r8, .sra_r8, .sra_r8, .sra_mXYd, .sra_r8] : RowGrid) ++
   ([.rotUnknown_r8, .rotUnknown_r8, .rotUnknown_r8, .rotUnknown_r8, .rotUnknown_r8, .rotUnknown_r8, .rotUnknown_mXYd, .rotUnknown_r8, .srl_r8, .srl_r8, .srl_r8, .srl_r8, .srl_r8, .srl_r8, .srl_mXYd, .srl_r8] : RowGrid) ++
   ([.bit_0_r8, .bit_0_r8, .bit_0_r8, .bit_0_r8, .bit_0_r8, .bit_0_r8, .bit_0_mXYd, .bit_0_r8, .bit_1_r8, .bit_1_r8, .bit_1_r8, .bit_1_r8, .bit_1_r8, .bit_1_r8, .bit_1_mXYd, .bit_1_r8] : RowGrid) ++
   ([.bit_2_r8, .bit_2_r8, .bit_2_r8, .bit_2_r8, .bit_2_r8, .bit_2_r8, .bit_2_mXYd, .bit_2_r8, .bit_3_r8, .bit_3_r8, .bit_3_r8, .bit_3_r8, .bit_3_r8, .bit_3_r8, .bit_3_mXYd, .bit_3_r8] : RowGrid) ++
   ([.bit_4_r8, .bit_4_r8, .bit_4_r8, .bit_4_r8, .bit_4_r8, .bit_4_r8, .bit_4_mXYd, .bit_4_r8, .bit_5_r8, .bit_5_r8, .bit_5_r8, .bit_5_r8, .bit_5_r8, .bit_5_r8, .bit_5_mXYd, .bit_5_r8] : RowGrid) ++
   ([.bit_6_r8, .bit_6_r8, .bit_6_r8, .bit_6_r8, .bit_6_r8, .bit_6_r8, .bit_6_mXYd, .bit_6_r8, .bit_7_r8, .bit_7_r8, .bit_7_r8, .bit_7_r8, .bit_7_r8, .bit_7_r8, .bit_7_mXYd, .bit_7_r8] : RowGrid) ++
   ([.res_0_r8, .res_0_r8, .res_0_r8, .res_0_r8, .res_0_r8, .res_0_r8, .res_0_mXYd, .res_0_r8, .res_1_r8, .res_1_r8, .res_1_r8, .res_1_r8, .res_1_r8, .res_1_r8, .res_1_mXYd, .res_1_r8] : RowGrid) ++
   ([.res_2_r8, .res_2_r8, .res_2_r8, .res_2_r8, .res_2_r8, .res_2_r8, .res_2_mXYd, .res_2_r8, .res_3_r8, .res_3_r8, .res_3_r8, .res_3_r8, .res_3_r8, .res_3_r8, .res_3_mXYd, .res_3_r8] : RowGrid) ++
   ([.res_4_r8, .res_4_r8, .res_4_r8, .res_4_r8, .res_4_r8, .res_4_r8, .res_4_mXYd, .res_4_r8, .res_5_r8, .res_5_r8, .res_5_r8, .res_5_r8, .res_5_r8, .res_5_r8, .res_5_mXYd, .res_5_r8] : RowGrid) ++
   ([.res_6_r8, .res_6_r8, .res_6_r8, .res_6_r8, .res_6_r8, .res_6_r8, .res_6_mXYd, .res_6_r8, .res_7_r8, .res_7_r8, .res_7_r8, .res_7_r8, .res_7_r8, .res_7_r8, .res_7_mXYd, .res_7_r8] : RowGrid) ++
   ([.set_0_r8, .set_0_r8, .set_0_r8, .set_0_r8, .set_0_r8, .set_0_r8, .set_0_mXYd, .set_0_r8, .set_1_r8, .set_1_r8, .set_1_r8, .set_1_r8, .set_1_r8, .set_1_r8, .set_1_mXYd, .set_1_r8] : RowGrid) ++
   ([.set_2_r8, .set_2_r8, .set_2_r8, .set_2_r8, .set_2_r8, .set_2_r8, .set_2_mXYd, .set_2_r8, .set_3_r8, .set_3_r8, .set_3_r8, .set_3_r8, .set_3_r8, .set_3_r8, .set_3_mXYd, .set_3_r8] : RowGrid) ++
   ([.set_4_r8, .set_4_r8, .set_4_r8, .set_4_r8, .set_4_r8, .set_4_r8, .set_4_mXYd, .set_4_r8, .set_5_r8, .set_5_r8, .set_5_r8, .set_5_r8, .set_5_r8, .set_5_r8, .set_5_mXYd, .set_5_r8] : RowGrid) ++
   ([.set_6_r8, .set_6_r8, .set_6_r8, .set_6_r8, .set_6_r8, .set_6_r8, .set_6_mXYd, .set_6_r8, .set_7_r8, .set_7_r8, .set_7_r8, .set_7_r8, .set_7_r8, .set_7_r8, .set_7_mXYd, .set_7_r8] : RowGrid)

/-- Rows of the index postbyte patterns (R187 to R189). -/
noncomputable def rowsPostbyte : RowGrid :=
   ([.postIdx5, .postIdx5, .postIdx5, .postIdx5, .postIdx5, .postIdx5, .postIdx5, .postIdx5, .postIdx5, .postIdx5, .postIdx5, .postIdx5, .postIdx5, .postIdx5, .postIdx5, .postIdx5] : RowGrid) ++
   ([.postIdx5, .postIdx5, .postIdx5, .postIdx5, .postIdx5, .postIdx5, .postIdx5, .postIdx5, .postIdx5, .postIdx5, .postIdx5, .postIdx5, .postIdx5, .postIdx5, .postIdx5, .postIdx5] : RowGrid) ++
   ([.postIdx5, .postIdx5, .postIdx5, .postIdx5, .postIdx5, .postIdx5, .postIdx5, .postIdx5, .postIdx5, .postIdx5, .postIdx5, .postIdx5, .postIdx5, .postIdx5, .postIdx5, .postIdx5] : RowGrid) ++
   ([.postIdx5, .postIdx5, .postIdx5, .postIdx5, .postIdx5, .postIdx5, .postIdx5, .postIdx5, .postIdx5, .postIdx5, .postIdx5, .postIdx5, .postIdx5, .postIdx5, .postIdx5, .postIdx5] : RowGrid) ++
   ([.postIdx5, .postIdx5, .postIdx5, .postIdx5, .postIdx5, .postIdx5, .postIdx5, .postIdx5, .postIdx5, .postIdx5, .postIdx5, .postIdx5, .postIdx5, .postIdx5, .postIdx5, .postIdx5] : RowGrid) ++
   ([.postIdx5, .postIdx5, .postIdx5, .postIdx5, .postIdx5, .postIdx5, .postIdx5, .postIdx5, .postIdx5, .postIdx5, .postIdx5, .postIdx5, .postIdx5, .postIdx5, .postIdx5, .postIdx5] : RowGrid) ++
   ([.postIdx5, .postIdx5, .postIdx5, .postIdx5, .postIdx5, .postIdx5, .postIdx5, .postIdx5, .postIdx5, .postIdx5, .postIdx5, .postIdx5, .postIdx5, .postIdx5, .postIdx5, .postIdx5] : RowGrid) ++
   ([.postIdx5, .postIdx5, .postIdx5, .postIdx5, .postIdx5, .postIdx5, .postIdx5, .postIdx5, .postIdx5, .postIdx5, .postIdx5, .postIdx5, .postIdx5, .postIdx5, .postIdx5, .postIdx5] : RowGrid) ++
   ([.postInc1, .postInc2, .postDec1, .postDec2, .postZero, .postAccB, .postAccA, .postInvalid, .postConst8, .postConst16, .postInvalid, .postAccD, .postPcr8, .postPcr16, .postInvalid, .postInvalid] : RowGrid) ++
   ([.postInvalid, .postInc2Ind, .postInvalid, .postDec2Ind, .postZeroInd, .postAccBInd, .postAccAInd, .postInvalid, .postConst8Ind, .postConst16Ind, .postInvalid, .postAccDInd, .postPcr8Ind, .postPcr16Ind, .postInvalid, .postExtInd] : RowGrid) ++
   ([.postInc1, .postInc2, .postDec1, .postDec2, .postZero, .postAccB, .postAccA, .postInvalid, .postConst8, .postConst16, .postInvalid, .postAccD, .postPcr8, .postPcr16, .postInvalid, .postInvalid] : RowGrid) ++
   ([.postInvalid, .postInc2Ind, .postInvalid, .postDec2Ind, .postZeroInd, .postAccBInd, .postAccAInd, .postInvalid, .postConst8Ind, .postConst16Ind, .postInvalid, .postAccDInd, .postPcr8Ind, .postPcr16Ind, .postInvalid, .postInvalid] : RowGrid) ++
   ([.postInc1, .postInc2, .postDec1, .postDec2, .postZero, .postAccB, .postAccA, .postInvalid, .postConst8, .postConst16, .postInvalid, .postAccD, .postPcr8, .postPcr16, .postInvalid, .postInvalid] : RowGrid) ++
   ([.postInvalid, .postInc2Ind, .postInvalid, .postDec2Ind, .postZeroInd, .postAccBInd, .postAccAInd, .postInvalid, .postConst8Ind, .postConst16Ind, .postInvalid, .postAccDInd, .postPcr8Ind, .postPcr16Ind, .postInvalid, .postInvalid] : RowGrid) ++
   ([.postInc1, .postInc2, .postDec1, .postDec2, .postZero, .postAccB, .postAccA, .postInvalid, .postConst8, .postConst16, .postInvalid, .postAccD, .postPcr8, .postPcr16, .postInvalid, .postInvalid] : RowGrid) ++
   ([.postInvalid, .postInc2Ind, .postInvalid, .postDec2Ind, .postZeroInd, .postAccBInd, .postAccAInd, .postInvalid, .postConst8Ind, .postConst16Ind, .postInvalid, .postAccDInd, .postPcr8Ind, .postPcr16Ind, .postInvalid, .postInvalid] : RowGrid)

/-- The row of a grid at an opcode byte. -/
noncomputable def gridAt (grid : RowGrid) (op : Byte) (f : Form) : Instr := (grid.getD op.toNat .unknown) f

/-- The instruction a form stands for: its row's constructor (R86). -/
noncomputable def instrOf (f : Form) : Instr :=
  match f.lead with
  | .mos6502 .nmos op => gridAt rowsT6502 op f
  | .mos6502 .cmos op => gridAt rowsT65C02 op f
  | .m6800 op => gridAt rowsT6800 op f
  | .m6809 op => gridAt rowsT6809 op f
  | .paged .page2 op => gridAt rowsPage2 op f
  | .paged .page3 op => gridAt rowsPage3 op f
  | .z80 op => gridAt rowsTZ80 op f
  | .cb op => gridAt rowsCB op f
  | .ed op => gridAt rowsED op f
  | .xy _ op => gridAt rowsXY op f
  | .xyCb _ _ op => gridAt rowsXYCB op f
  | .postbyte pb => gridAt rowsPostbyte pb f

/-- The form of a row; a command has none (R70). -/
def instrForm : Instr → Option Form
  | .cmdBegin _ _ => none
  | .cmdContinue _ => none
  | .cmdComplete => none
  | .brk f => some f
  | .oraIndX f => some f
  | .oraZp f => some f
  | .aslZp f => some f
  | .php f => some f
  | .oraImm f => some f
  | .aslAcc f => some f
  | .oraAbs f => some f
  | .aslAbs f => some f
  | .bplRel f => some f
  | .oraIndY f => some f
  | .oraZpX f => some f
  | .aslZpX f => some f
  | .clc f => some f
  | .oraAbsY f => some f
  | .oraAbsX f => some f
  | .aslAbsX f => some f
  | .jsrAbs f => some f
  | .andIndX f => some f
  | .bitZp f => some f
  | .andZp f => some f
  | .rolZp f => some f
  | .plp f => some f
  | .andImm f => some f
  | .rolAcc f => some f
  | .bitAbs f => some f
  | .andAbs f => some f
  | .rolAbs f => some f
  | .bmiRel f => some f
  | .andIndY f => some f
  | .andZpX f => some f
  | .rolZpX f => some f
  | .sec f => some f
  | .andAbsY f => some f
  | .andAbsX f => some f
  | .rolAbsX f => some f
  | .rti f => some f
  | .eorIndX f => some f
  | .eorZp f => some f
  | .lsrZp f => some f
  | .pha f => some f
  | .eorImm f => some f
  | .lsrAcc f => some f
  | .jmpAbs f => some f
  | .eorAbs f => some f
  | .lsrAbs f => some f
  | .bvcRel f => some f
  | .eorIndY f => some f
  | .eorZpX f => some f
  | .lsrZpX f => some f
  | .cli f => some f
  | .eorAbsY f => some f
  | .eorAbsX f => some f
  | .lsrAbsX f => some f
  | .rts f => some f
  | .adcIndX f => some f
  | .adcZp f => some f
  | .rorZp f => some f
  | .pla f => some f
  | .adcImm f => some f
  | .rorAcc f => some f
  | .jmpInd f => some f
  | .adcAbs f => some f
  | .rorAbs f => some f
  | .bvsRel f => some f
  | .adcIndY f => some f
  | .adcZpX f => some f
  | .rorZpX f => some f
  | .sei f => some f
  | .adcAbsY f => some f
  | .adcAbsX f => some f
  | .rorAbsX f => some f
  | .staIndX f => some f
  | .styZp f => some f
  | .staZp f => some f
  | .stxZp f => some f
  | .dey f => some f
  | .txa f => some f
  | .styAbs f => some f
  | .staAbs f => some f
  | .stxAbs f => some f
  | .bccRel f => some f
  | .staIndY f => some f
  | .styZpX f => some f
  | .staZpX f => some f
  | .stxZpY f => some f
  | .tya f => some f
  | .staAbsY f => some f
  | .txs f => some f
  | .staAbsX f => some f
  | .ldyImm f => some f
  | .ldaIndX f => some f
  | .ldxImm f => some f
  | .ldyZp f => some f
  | .ldaZp f => some f
  | .ldxZp f => some f
  | .tay f => some f
  | .ldaImm f => some f
  | .tax f => some f
  | .ldyAbs f => some f
  | .ldaAbs f => some f
  | .ldxAbs f => some f
  | .bcsRel f => some f
  | .ldaIndY f => some f
  | .ldyZpX f => some f
  | .ldaZpX f => some f
  | .ldxZpY f => some f
  | .clv f => some f
  | .ldaAbsY f => some f
  | .tsx f => some f
  | .ldyAbsX f => some f
  | .ldaAbsX f => some f
  | .ldxAbsY f => some f
  | .cpyImm f => some f
  | .cmpIndX f => some f
  | .cpyZp f => some f
  | .cmpZp f => some f
  | .decZp f => some f
  | .iny f => some f
  | .cmpImm f => some f
  | .dex f => some f
  | .cpyAbs f => some f
  | .cmpAbs f => some f
  | .decAbs f => some f
  | .bneRel f => some f
  | .cmpIndY f => some f
  | .cmpZpX f => some f
  | .decZpX f => some f
  | .cld f => some f
  | .cmpAbsY f => some f
  | .cmpAbsX f => some f
  | .decAbsX f => some f
  | .cpxImm f => some f
  | .sbcIndX f => some f
  | .cpxZp f => some f
  | .sbcZp f => some f
  | .incZp f => some f
  | .inx f => some f
  | .sbcImm f => some f
  | .nop f => some f
  | .cpxAbs f => some f
  | .sbcAbs f => some f
  | .incAbs f => some f
  | .beqRel f => some f
  | .sbcIndY f => some f
  | .sbcZpX f => some f
  | .incZpX f => some f
  | .sed f => some f
  | .sbcAbsY f => some f
  | .sbcAbsX f => some f
  | .incAbsX f => some f
  | .unknown f => some f
  | .tsbZp f => some f
  | .tsbAbs f => some f
  | .oraZpInd f => some f
  | .trbZp f => some f
  | .inc_a f => some f
  | .trbAbs f => some f
  | .andZpInd f => some f
  | .bitZpX f => some f
  | .dec_a f => some f
  | .bitAbsX f => some f
  | .eorZpInd f => some f
  | .phy f => some f
  | .stzZp f => some f
  | .adcZpInd f => some f
  | .stzZpX f => some f
  | .ply f => some f
  | .jmpAbsIndX f => some f
  | .braRel f => some f
  | .bitImm f => some f
  | .staZpInd f => some f
  | .stzAbs f => some f
  | .stzAbsX f => some f
  | .ldaZpInd f => some f
  | .cmpZpInd f => some f
  | .phx f => some f
  | .sbcZpInd f => some f
  | .plx f => some f
  | .tap f => some f
  | .tpa f => some f
  | .sev f => some f
  | .sba f => some f
  | .cba f => some f
  | .tab f => some f
  | .tba f => some f
  | .daa f => some f
  | .aba f => some f
  | .bra f => some f
  | .bhi f => some f
  | .bls f => some f
  | .bcc f => some f
  | .bcs f => some f
  | .bne f => some f
  | .beq f => some f
  | .bvc f => some f
  | .bvs f => some f
  | .bpl f => some f
  | .bmi f => some f
  | .bge f => some f
  | .blt f => some f
  | .bgt f => some f
  | .ble f => some f
  | .ins f => some f
  | .pula f => some f
  | .pulb f => some f
  | .des f => some f
  | .psha f => some f
  | .pshb f => some f
  | .wai f => some f
  | .swi f => some f
  | .nega f => some f
  | .coma f => some f
  | .lsra f => some f
  | .rora f => some f
  | .asra f => some f
  | .asla f => some f
  | .rola f => some f
  | .deca f => some f
  | .inca f => some f
  | .tsta f => some f
  | .clra f => some f
  | .negb f => some f
  | .comb f => some f
  | .lsrb f => some f
  | .rorb f => some f
  | .asrb f => some f
  | .aslb f => some f
  | .rolb f => some f
  | .decb f => some f
  | .incb f => some f
  | .tstb f => some f
  | .clrb f => some f
  | .neg f => some f
  | .com f => some f
  | .lsr f => some f
  | .ror f => some f
  | .asr f => some f
  | .asl f => some f
  | .rol f => some f
  | .dec f => some f
  | .inc f => some f
  | .tst f => some f
  | .jmp f => some f
  | .clr f => some f
  | .suba f => some f
  | .cmpa f => some f
  | .sbca f => some f
  | .anda f => some f
  | .bita f => some f
  | .ldaa f => some f
  | .eora f => some f
  | .adca f => some f
  | .oraa f => some f
  | .adda f => some f
  | .cpx f => some f
  | .bsr f => some f
  | .lds f => some f
  | .staa f => some f
  | .sts f => some f
  | .jsr f => some f
  | .subb f => some f
  | .cmpb f => some f
  | .sbcb f => some f
  | .andb f => some f
  | .bitb f => some f
  | .ldab f => some f
  | .eorb f => some f
  | .adcb f => some f
  | .orab f => some f
  | .addb f => some f
  | .ldx f => some f
  | .stab f => some f
  | .stx f => some f
  | .lbrn f => some f
  | .lbhi f => some f
  | .lbls f => some f
  | .lbcc f => some f
  | .lbcs f => some f
  | .lbne f => some f
  | .lbeq f => some f
  | .lbvc f => some f
  | .lbvs f => some f
  | .lbpl f => some f
  | .lbmi f => some f
  | .lbge f => some f
  | .lblt f => some f
  | .lbgt f => some f
  | .lble f => some f
  | .swi2 f => some f
  | .cmpd f => some f
  | .cmpy f => some f
  | .ldy f => some f
  | .sty f => some f
  | .swi3 f => some f
  | .cmpu f => some f
  | .cmps f => some f
  | .sync f => some f
  | .lbra f => some f
  | .lbsr f => some f
  | .orcc f => some f
  | .andcc f => some f
  | .sex f => some f
  | .exg f => some f
  | .tfr f => some f
  | .brn f => some f
  | .leax f => some f
  | .leay f => some f
  | .leas f => some f
  | .leau f => some f
  | .pshs f => some f
  | .puls f => some f
  | .pshu f => some f
  | .pulu f => some f
  | .abx f => some f
  | .cwai f => some f
  | .mul f => some f
  | .subd f => some f
  | .lda f => some f
  | .ora f => some f
  | .cmpx f => some f
  | .sta f => some f
  | .addd f => some f
  | .ldb f => some f
  | .orb f => some f
  | .ldd f => some f
  | .ldu f => some f
  | .stb f => some f
  | .std f => some f
  | .stu f => some f
  | .postIdx5 f => some f
  | .postExtInd f => some f
  | .postInc1 f => some f
  | .postInc2 f => some f
  | .postInc2Ind f => some f
  | .postDec1 f => some f
  | .postDec2 f => some f
  | .postDec2Ind f => some f
  | .postZero f => some f
  | .postZeroInd f => some f
  | .postAccB f => some f
  | .postAccBInd f => some f
  | .postAccA f => some f
  | .postAccAInd f => some f
  | .postConst8 f => some f
  | .postConst8Ind f => some f
  | .postConst16 f => some f
  | .postConst16Ind f => some f
  | .postAccD f => some f
  | .postAccDInd f => some f
  | .postPcr8 f => some f
  | .postPcr8Ind f => some f
  | .postPcr16 f => some f
  | .postPcr16Ind f => some f
  | .postInvalid f => some f
  | .rlc_mXYd f => some f
  | .rrc_mXYd f => some f
  | .rl_mXYd f => some f
  | .rr_mXYd f => some f
  | .sla_mXYd f => some f
  | .sra_mXYd f => some f
  | .rotUnknown_mXYd f => some f
  | .srl_mXYd f => some f
  | .bit_0_mXYd f => some f
  | .bit_1_mXYd f => some f
  | .bit_2_mXYd f => some f
  | .bit_3_mXYd f => some f
  | .bit_4_mXYd f => some f
  | .bit_5_mXYd f => some f
  | .bit_6_mXYd f => some f
  | .bit_7_mXYd f => some f
  | .res_0_mXYd f => some f
  | .res_1_mXYd f => some f
  | .res_2_mXYd f => some f
  | .res_3_mXYd f => some f
  | .res_4_mXYd f => some f
  | .res_5_mXYd f => some f
  | .res_6_mXYd f => some f
  | .res_7_mXYd f => some f
  | .set_0_mXYd f => some f
  | .set_1_mXYd f => some f
  | .set_2_mXYd f => some f
  | .set_3_mXYd f => some f
  | .set_4_mXYd f => some f
  | .set_5_mXYd f => some f
  | .set_6_mXYd f => some f
  | .set_7_mXYd f => some f
  | .rlc_r8 f => some f
  | .rrc_r8 f => some f
  | .rl_r8 f => some f
  | .rr_r8 f => some f
  | .sla_r8 f => some f
  | .sra_r8 f => some f
  | .rotUnknown_r8 f => some f
  | .srl_r8 f => some f
  | .bit_0_r8 f => some f
  | .bit_1_r8 f => some f
  | .bit_2_r8 f => some f
  | .bit_3_r8 f => some f
  | .bit_4_r8 f => some f
  | .bit_5_r8 f => some f
  | .bit_6_r8 f => some f
  | .bit_7_r8 f => some f
  | .res_0_r8 f => some f
  | .res_1_r8 f => some f
  | .res_2_r8 f => some f
  | .res_3_r8 f => some f
  | .res_4_r8 f => some f
  | .res_5_r8 f => some f
  | .res_6_r8 f => some f
  | .res_7_r8 f => some f
  | .set_0_r8 f => some f
  | .set_1_r8 f => some f
  | .set_2_r8 f => some f
  | .set_3_r8 f => some f
  | .set_4_r8 f => some f
  | .set_5_r8 f => some f
  | .set_6_r8 f => some f
  | .set_7_r8 f => some f
  | .add_xy_rrx f => some f
  | .ld_bc_word f => some f
  | .ld_mBC_a f => some f
  | .inc_bc f => some f
  | .inc_b f => some f
  | .dec_b f => some f
  | .ld_b_byte f => some f
  | .rlca f => some f
  | .ex_af_afAlt f => some f
  | .ld_a_mBC f => some f
  | .dec_bc f => some f
  | .inc_c f => some f
  | .dec_c f => some f
  | .ld_c_byte f => some f
  | .rrca f => some f
  | .djnz_rel f => some f
  | .ld_de_word f => some f
  | .ld_mDE_a f => some f
  | .inc_de f => some f
  | .inc_d f => some f
  | .dec_d f => some f
  | .ld_d_byte f => some f
  | .rla f => some f
  | .jr_rel f => some f
  | .ld_a_mDE f => some f
  | .dec_de f => some f
  | .inc_e f => some f
  | .dec_e f => some f
  | .ld_e_byte f => some f
  | .rra f => some f
  | .jr_nz_rel f => some f
  | .ld_xy_word f => some f
  | .ld_mWord_xy f => some f
  | .inc_xy f => some f
  | .inc_h f => some f
  | .dec_h f => some f
  | .ld_h_byte f => some f
  | .jr_z_rel f => some f
  | .ld_xy_mWord f => some f
  | .dec_xy f => some f
  | .inc_l f => some f
  | .dec_l f => some f
  | .ld_l_byte f => some f
  | .cpl f => some f
  | .jr_nc_rel f => some f
  | .ld_sp_word f => some f
  | .ld_mWord_a f => some f
  | .inc_sp f => some f
  | .inc_mXYd f => some f
  | .dec_mXYd f => some f
  | .ld_mXYd_byte f => some f
  | .scf f => some f
  | .jr_c_rel f => some f
  | .ld_a_mWord f => some f
  | .dec_sp f => some f
  | .ld_a_byte f => some f
  | .ccf f => some f
  | .ld_b_b f => some f
  | .ld_b_c f => some f
  | .ld_b_d f => some f
  | .ld_b_e f => some f
  | .ld_b_h f => some f
  | .ld_b_l f => some f
  | .ld_b_mXYd f => some f
  | .ld_b_a f => some f
  | .ld_c_b f => some f
  | .ld_c_c f => some f
  | .ld_c_d f => some f
  | .ld_c_e f => some f
  | .ld_c_h f => some f
  | .ld_c_l f => some f
  | .ld_c_mXYd f => some f
  | .ld_c_a f => some f
  | .ld_d_b f => some f
  | .ld_d_c f => some f
  | .ld_d_d f => some f
  | .ld_d_e f => some f
  | .ld_d_h f => some f
  | .ld_d_l f => some f
  | .ld_d_mXYd f => some f
  | .ld_d_a f => some f
  | .ld_e_b f => some f
  | .ld_e_c f => some f
  | .ld_e_d f => some f
  | .ld_e_e f => some f
  | .ld_e_h f => some f
  | .ld_e_l f => some f
  | .ld_e_mXYd f => some f
  | .ld_e_a f => some f
  | .ld_h_b f => some f
  | .ld_h_c f => some f
  | .ld_h_d f => some f
  | .ld_h_e f => some f
  | .ld_h_h f => some f
  | .ld_h_l f => some f
  | .ld_h_mXYd f => some f
  | .ld_h_a f => some f
  | .ld_l_b f => some f
  | .ld_l_c f => some f
  | .ld_l_d f => some f
  | .ld_l_e f => some f
  | .ld_l_h f => some f
  | .ld_l_l f => some f
  | .ld_l_mXYd f => some f
  | .ld_l_a f => some f
  | .ld_mXYd_b f => some f
  | .ld_mXYd_c f => some f
  | .ld_mXYd_d f => some f
  | .ld_mXYd_e f => some f
  | .ld_mXYd_h f => some f
  | .ld_mXYd_l f => some f
  | .halt f => some f
  | .ld_mXYd_a f => some f
  | .ld_a_b f => some f
  | .ld_a_c f => some f
  | .ld_a_d f => some f
  | .ld_a_e f => some f
  | .ld_a_h f => some f
  | .ld_a_l f => some f
  | .ld_a_mXYd f => some f
  | .ld_a_a f => some f
  | .add_a_b f => some f
  | .add_a_c f => some f
  | .add_a_d f => some f
  | .add_a_e f => some f
  | .add_a_h f => some f
  | .add_a_l f => some f
  | .add_a_mXYd f => some f
  | .add_a_a f => some f
  | .adc_a_b f => some f
  | .adc_a_c f => some f
  | .adc_a_d f => some f
  | .adc_a_e f => some f
  | .adc_a_h f => some f
  | .adc_a_l f => some f
  | .adc_a_mXYd f => some f
  | .adc_a_a f => some f
  | .sub_b f => some f
  | .sub_c f => some f
  | .sub_d f => some f
  | .sub_e f => some f
  | .sub_h f => some f
  | .sub_l f => some f
  | .sub_mXYd f => some f
  | .sub_a f => some f
  | .sbc_a_b f => some f
  | .sbc_a_c f => some f
  | .sbc_a_d f => some f
  | .sbc_a_e f => some f
  | .sbc_a_h f => some f
  | .sbc_a_l f => some f
  | .sbc_a_mXYd f => some f
  | .sbc_a_a f => some f
  | .and_b f => some f
  | .and_c f => some f
  | .and_d f => some f
  | .and_e f => some f
  | .and_h f => some f
  | .and_l f => some f
  | .and_mXYd f => some f
  | .and_a f => some f
  | .xor_b f => some f
  | .xor_c f => some f
  | .xor_d f => some f
  | .xor_e f => some f
  | .xor_h f => some f
  | .xor_l f => some f
  | .xor_mXYd f => some f
  | .xor_a f => some f
  | .or_b f => some f
  | .or_c f => some f
  | .or_d f => some f
  | .or_e f => some f
  | .or_h f => some f
  | .or_l f => some f
  | .or_mXYd f => some f
  | .or_a f => some f
  | .cp_b f => some f
  | .cp_c f => some f
  | .cp_d f => some f
  | .cp_e f => some f
  | .cp_h f => some f
  | .cp_l f => some f
  | .cp_mXYd f => some f
  | .cp_a f => some f
  | .ret_nz f => some f
  | .pop_bc f => some f
  | .jp_nz_word f => some f
  | .jp_word f => some f
  | .call_nz_word f => some f
  | .push_bc f => some f
  | .add_a_byte f => some f
  | .rst_00h f => some f
  | .ret_z f => some f
  | .ret f => some f
  | .jp_z_word f => some f
  | .call_z_word f => some f
  | .call_word f => some f
  | .adc_a_byte f => some f
  | .rst_08h f => some f
  | .ret_nc f => some f
  | .pop_de f => some f
  | .jp_nc_word f => some f
  | .out_mByte_a f => some f
  | .call_nc_word f => some f
  | .push_de f => some f
  | .sub_byte f => some f
  | .rst_10h f => some f
  | .ret_c f => some f
  | .exx f => some f
  | .jp_c_word f => some f
  | .in_a_mByte f => some f
  | .call_c_word f => some f
  | .sbc_a_byte f => some f
  | .rst_18h f => some f
  | .ret_po f => some f
  | .pop_xy f => some f
  | .jp_po_word f => some f
  | .ex_mSP_xy f => some f
  | .call_po_word f => some f
  | .push_xy f => some f
  | .and_byte f => some f
  | .rst_20h f => some f
  | .ret_pe f => some f
  | .jp_mXY f => some f
  | .jp_pe_word f => some f
  | .ex_de_xy f => some f
  | .call_pe_word f => some f
  | .xor_byte f => some f
  | .rst_28h f => some f
  | .ret_p f => some f
  | .pop_af f => some f
  | .jp_p_word f => some f
  | .di f => some f
  | .call_p_word f => some f
  | .push_af f => some f
  | .or_byte f => some f
  | .rst_30h f => some f
  | .ret_m f => some f
  | .ld_sp_xy f => some f
  | .jp_m_word f => some f
  | .ei f => some f
  | .call_m_word f => some f
  | .cp_byte f => some f
  | .rst_38h f => some f
  | .ldi f => some f
  | .cpi f => some f
  | .ini f => some f
  | .outi f => some f
  | .cpd f => some f
  | .ind f => some f
  | .outd f => some f
  | .ldir f => some f
  | .cpir f => some f
  | .inir f => some f
  | .otir f => some f
  | .lddr f => some f
  | .cpdr f => some f
  | .indr f => some f
  | .otdr f => some f
  | .sbc_hl_rr f => some f
  | .adc_hl_rr f => some f
  | .ld_mWord_rr f => some f
  | .ld_rr_mWord f => some f
  | .in_r8io_mC f => some f
  | .out_mC_r8io f => some f
  | .retn f => some f
  | .im_0 f => some f
  | .ld_i_a f => some f
  | .reti f => some f
  | .ld_r_a f => some f
  | .im_1 f => some f
  | .ld_a_i f => some f
  | .im_2 f => some f
  | .ld_a_r f => some f
  | .rrd f => some f
  | .rld f => some f
  | .add_hl_bc f => some f
  | .add_hl_de f => some f
  | .ld_hl_word f => some f
  | .ld_mWord_hl f => some f
  | .inc_hl f => some f
  | .add_hl_hl f => some f
  | .ld_hl_mWord f => some f
  | .dec_hl f => some f
  | .inc_mHL f => some f
  | .dec_mHL f => some f
  | .ld_mHL_byte f => some f
  | .add_hl_sp f => some f
  | .ld_b_mHL f => some f
  | .ld_c_mHL f => some f
  | .ld_d_mHL f => some f
  | .ld_e_mHL f => some f
  | .ld_h_mHL f => some f
  | .ld_l_mHL f => some f
  | .ld_mHL_b f => some f
  | .ld_mHL_c f => some f
  | .ld_mHL_d f => some f
  | .ld_mHL_e f => some f
  | .ld_mHL_h f => some f
  | .ld_mHL_l f => some f
  | .ld_mHL_a f => some f
  | .ld_a_mHL f => some f
  | .add_a_mHL f => some f
  | .adc_a_mHL f => some f
  | .sub_mHL f => some f
  | .sbc_a_mHL f => some f
  | .and_mHL f => some f
  | .xor_mHL f => some f
  | .or_mHL f => some f
  | .cp_mHL f => some f
  | .pop_hl f => some f
  | .ex_mSP_hl f => some f
  | .push_hl f => some f
  | .jp_mHL f => some f
  | .ex_de_hl f => some f
  | .ld_sp_hl f => some f

end Sys2Proof.Machine
end

