-- ==== Sys2Proof/WellFormed.lean ====
section
/-! DEFINITION. Well-formed instructions: the form matches a row, and the constructor is that row's (R86). -/

namespace Sys2Proof

/-- A command is always well formed (R70). A row is well formed when its lead bytes open no other form, its operand has
the shape its row asks for, and the row these bytes belong to is the one its constructor names. -/
noncomputable def Instr.wf (i : Instr) : Bool :=
  match Machine.instrForm i with
  | none => true
  | some f => Machine.formFits f && decide (Machine.instrOf f = i)

end Sys2Proof
end

