-- ==== Sys2Proof/Decode.lean ====
section
/-! DEFINITION. The decoder: bytes to an instruction, total, rejecting by name; then the encoder (R71 to R79, R83). It
reads the rows of spec/opcode_table.json, so it reads for the reference tables only. -/

namespace Sys2Proof

open Machine

/-- Why bytes are no instruction yet. -/
inductive DecodeError where
  /-- No byte at all. -/
  | noBytes
  /-- The bytes stop inside the instruction. -/
  | truncated
  /-- The block holds other tables than the reference ones, and spec/opcode_table.json lists no rows for those. -/
  | unlistedTables
  deriving DecidableEq, Repr

/-- Reads an operand of a given shape; `none` when the bytes stop before its end (R75, R80). -/
def readOperand (big : Bool) : OperandKind → List Byte → Option (Operand × List Byte)
  | .none, bs => some (.none, bs)
  | .byte, b :: bs => some (.byte b, bs)
  | .word, b0 :: b1 :: bs => some (.word (wordOf big b0 b1), bs)
  | .dispByte, d :: b :: bs => some (.dispByte d b, bs)
  | .indexed, pb :: bs =>
    match extra6809 (postbyteMode pb), bs with
    | 2, b :: bs => some (.index8 pb b, bs)
    | 3, b0 :: b1 :: bs => some (.index16 pb (wordOf big b0 b1), bs)
    | 2, _ | 3, _ => none
    | _, bs => some (.index pb, bs)
  | _, _ => none

/-- A lead with the operand its row asks for. -/
def readForm (lead : Lead) (bs : List Byte) : Except DecodeError (Form × List Byte) :=
  match readOperand (isBigEndian lead) (leadKind lead) bs with
  | some (operand, rest) => .ok (⟨lead, operand⟩, rest)
  | none => .error .truncated

/-- The lead bytes of a 6809 instruction (R181, R182). -/
def decode6809 (b0 : Byte) (bs : List Byte) : Except DecodeError (Form × List Byte) :=
  if b0 = 0x10 ∨ b0 = 0x11 then
    match bs with
    | [] => .error .truncated
    | op :: bs => readForm (.paged (if b0 = 0x10 then .page2 else .page3) op) bs
  else readForm (.m6809 b0) bs

/-- The lead bytes of a Z80 instruction (R241). -/
def decodeZ80 (b0 : Byte) (bs : List Byte) : Except DecodeError (Form × List Byte) :=
  if isZ80LeadIn b0 then
    match bs with
    | [] => .error .truncated
    | op :: bs =>
      if b0 = 0xCB then readForm (.cb op) bs
      else if b0 = 0xED then readForm (.ed op) bs
      else if op = 0xCB then
        match bs with
        | disp :: op4 :: bs => readForm (.xyCb (iregOf b0) disp op4) bs
        | _ => .error .truncated
      else readForm (.xy (iregOf b0) op) bs
  else readForm (.z80 b0) bs

/-- The form at the head of a byte sequence, as a profile reads it (R83). -/
def decodeForm (p : Profile) : List Byte → Except DecodeError (Form × List Byte)
  | [] => .error .noBytes
  | b0 :: bs =>
    match p with
    | .p6502 => readForm (.mos6502 .nmos b0) bs
    | .p65C02 => readForm (.mos6502 .cmos b0) bs
    | .p6800 => readForm (.m6800 b0) bs
    | .p6809 | .p6809E => decode6809 b0 bs
    | .pZ80 => decodeZ80 b0 bs

/-- The instruction at the head of a byte sequence, and the bytes after it. -/
noncomputable def decode (p : Profile) (parameters : ParameterSet) (bs : List Byte) : Except DecodeError (Instr × List Byte) :=
  match parameters with
  | .custom _ => .error .unlistedTables
  | .reference =>
    match decodeForm p bs with
    | .ok (f, rest) => .ok (instrOf f, rest)
    | .error e => .error e

/-- The postbyte row at the head of a byte sequence, for a 6809 session that waits for its index postbyte (R187). -/
noncomputable def decodePostbyte : List Byte → Except DecodeError (Instr × List Byte)
  | [] => .error .noBytes
  | pb :: bs =>
    match readForm (.postbyte pb) bs with
    | .ok (f, rest) => .ok (instrOf f, rest)
    | .error e => .error e

/-! ## The words of spec/opcode_table.json -/

/-- The longest instruction, in bytes (R75). -/
def longestInstr : Nat := 5

/-- The bytes of a table word: byte 0 in bits 7..0, the next byte above it, zero above `nbits`. -/
def tableWordBytes (nbits w : Nat) : List Byte :=
  (List.range longestInstr).map fun k => BitVec.ofNat 8 (w % 2 ^ nbits / 256 ^ k)

/-- Whether a profile names the instruction at the head of a byte sequence, so that it is no `?` row. -/
noncomputable def namesInstr (p : Profile) (bs : List Byte) : Bool :=
  match decode p .reference bs with
  | .ok (.unknown _, _) => false
  | .ok _ => true
  | .error _ => false

/-- The profile in which a table word is read: a table word names no profile. A word of more than one byte that opens
with a page byte is read for the 6809, with a Z80 lead-in byte for the Z80; any other for the first profile that names
an instruction there (log entry 6). -/
noncomputable def tableWordProfile (nbits w : Nat) : Profile :=
  let bs := tableWordBytes nbits w
  let b0 := bs.headD 0
  if 8 < nbits ∧ isPageByte b0 then .p6809
  else if 8 < nbits ∧ isZ80LeadIn b0 then .pZ80
  else ([.p6502, .p65C02, .p6800, .p6809, .pZ80].find? fun p => namesInstr p bs).getD .p6502

/-- The instruction the decoder reads from a table word. -/
noncomputable def decodeTableWord (nbits w : Nat) : Option Instr :=
  match decode (tableWordProfile nbits w) .reference (tableWordBytes nbits w) with
  | .ok (i, _) => some i
  | .error _ => none

/-! ## Encoder -/

/-- The bytes of a well-formed instruction. A command has no bit encoding (R70), so no bytes. -/
def encode (i : Instr) : List Byte :=
  match instrForm i with
  | none => []
  | some f => formBytes f

end Sys2Proof
end

