-- ==== Sys2Proof/Machine/Fetch.lean ====
section
/-! DEFINITION. What the host feeds next: the head of the inbox, read as an instruction (log entries 4 and 5). -/

namespace Sys2Proof.Machine

/-- The instruction that a command is (R70). -/
def Command.instr : Command → Instr
  | .begin address firstByte => .cmdBegin address firstByte
  | .feed byte => .cmdContinue byte
  | .complete => .cmdComplete

/-- The stream address `n` bytes on (R33). The spec leaves the address of the next `begin` to the host: that the address
after `0xFFFFFFFF` is 0 is the model's choice (DESIGN CHOICE, log entry 24; unsafe). -/
def addressAfter (address : Address) (n : Nat) : Address := address + BitVec.ofNat 32 n

/-- Whether the next byte is the index postbyte of the 6809 instruction in flight (R183, R187). -/
def awaitsPostbyte (s : State) : Bool :=
  let raw := s.session.rawBytes
  let p := pageBytes raw
  (s.profile == .p6809 || s.profile == .p6809E) && s.session.bytesRequired == 0 && s.session.bytesFetched == p + 1
    && baseMode6809 (rawAt raw p) (p == 1) == none

/-- The instruction at the head of captured bytes, and how many bytes it takes. With an instruction in flight the bytes
continue it, one command each, an index postbyte with its offset bytes; otherwise they are the row that they decode to,
and a lone `begin` where they decode to none. -/
noncomputable def captureInstr (s : State) (address : Address) (b : Byte) (bs : List Byte) : Instr × Nat :=
  if s.session.state = .fetching then
    match (if awaitsPostbyte s then decodePostbyte (b :: bs) else .error .truncated) with
    | .ok (i, rest) => (i, (b :: bs).length - rest.length)
    | .error _ => (.cmdContinue b, 1)
  else
    match decode s.profile s.parameters (b :: bs) with
    | .ok (i, rest) => (i, (b :: bs).length - rest.length)
    | .error _ => (.cmdBegin address b, 1)

/-- The next instruction of a list of requests and the state that has taken it from the inbox; `none` when nothing is
left to send. -/
noncomputable def fetchFrom (s : State) : List Request → Option (Instr × State)
  | [] => none
  | .command c :: rs => some (c.instr, { s with inbox := rs })
  | .capture _ [] :: rs => fetchFrom s rs
  | .capture address (b :: bs) :: rs =>
    let next := captureInstr s address b bs
    some (next.1, { s with
      feedAddress := address
      inbox := .capture (addressAfter address next.2) ((b :: bs).drop next.2) :: rs })

/-- The next instruction. -/
noncomputable def fetch (s : State) : Option (Instr × State) := fetchFrom s s.inbox

end Sys2Proof.Machine
end

