-- ==== Sys2Proof/Machine/Step.lean ====
section
/-! DEFINITION. One step, and a table word placed where the next step fetches. -/

namespace Sys2Proof.Machine

/-- One step: the next instruction of the host runs; with nothing to send, the block waits as it is (R311, R316). -/
noncomputable def step (s : State) : Host.Outcome State Fault Refusal :=
  match fetch s with
  | none => .next s
  | some (i, s') => exec i s'

/-- `s` with a table word as the only thing the host has to send, under the profile the word is read in and the
reference parameters (log entry 6). -/
noncomputable def State.withFetchWord (s : State) (nbits w : Nat) : State :=
  { s with
    profile := tableWordProfile nbits w
    parameters := .reference
    inbox := [.capture 0 (tableWordBytes nbits w)] }

end Sys2Proof.Machine
end

