-- ==== Sys2Proof/Machine/Bank.lean ====
section
/-! DEFINITION. Several sessions of one decoder instance (R309). -/

namespace Sys2Proof.Machine

/-- A decoder instance with its sessions: one profile and one set of parameters for all (R309). -/
structure Bank where
  profile    : Profile
  parameters : ParameterSet
  sessions   : List Session
  deriving DecidableEq, Repr

/-- A session of the bank, as the state of a machine that holds it alone. -/
def Bank.solo (bank : Bank) (x : Session) : State := { State.create bank.profile bank.parameters with session := x }

/-- A new session in the reset state (R309, R316). -/
def Bank.create (bank : Bank) : Bank := { bank with sessions := bank.sessions ++ [Session.reset] }

/-- A command on the session at a place: the new bank and the reply, or the refusal. A place without a session
leaves the bank as it is. -/
def Bank.command (bank : Bank) (k : Nat) (c : Command) : Host.Outcome (Bank × Reply) Fault Refusal :=
  match bank.sessions[k]? with
  | none => .next (bank, .nothing)
  | some x =>
    match runCommand c (bank.solo x) with
    | .next s => .next ({ bank with sessions := bank.sessions.set k s.session }, s.reply)
    | .fault e => .fault e
    | .refused r => .refused r

end Sys2Proof.Machine
end

