-- ==== Sys2Proof/Machine/TableRules.lean ====
section
/-! DEFINITION. Well-formed parameters, W1 to W3 and their entry-wise conditions (R87), and the string that the reference
tables and the fixed constructions give a form (R86). No meaning reads these: they are the terms of claims. -/

namespace Sys2Proof.Machine

/-! ## Well-formed parameters -/

/-- A character `0x20` to `0x7E` (R85, R87 W1). -/
def isPrintable (c : AsciiChar) : Bool := decide (0x20 ≤ c.toNat) && decide (c.toNat ≤ 0x7E)

/-- A non-empty string of printable characters (R87 W1). -/
def isEntry (t : Text) : Bool := !t.isEmpty && t.all isPrintable

/-- A 6502 template (R87): at most 28 characters, 21 when it holds the relative marker. -/
def entryFits6502 (t : Text) : Bool :=
  isEntry t && decide (t.length ≤ if contains t markerRel then 21 else 28)

/-- A 6800 mnemonic: at most 8 characters (R87). -/
def entryFits6800 (t : Text) : Bool := isEntry t && decide (t.length ≤ 8)

/-- A 6809 mnemonic: at most 7 characters (R87). -/
def entryFits6809 (t : Text) : Bool := isEntry t && decide (t.length ≤ 7)

/-- How often `(HL)` occurs (R87). -/
def memoryRefs : Text → Nat
  | [] => 0
  | c :: t => memoryRefs t + if startsWith (c :: t) (ascii "(HL)") then 1 else 0

/-- A Z80 base template (R87): its length, four characters for each displacement that a prefix inserts, and seven for
the annotation of a target. W3 is asked of both of its forms as it stands, since the width bound of R87 does not give
it under a prefix (log entry 11). -/
def entryFitsZ80 (absTarget : Bool) (t : Text) : Bool :=
  isEntry t
    && decide (t.length + 4 * memoryRefs t + (if contains t placeholderRel || absTarget then 7 else 0) ≤ maxString)
    && decide (1 + templateWidth t ≤ maxBytes)
    && decide (2 + templateWidth (rewriteHL t .ix) ≤ maxBytes)
    && decide (2 + templateWidth (rewriteHL t .iy) ≤ maxBytes)

/-- Every entry of a table, as text. -/
def tableAll (t : Table) (ok : Text → Bool) : Bool := t.toList.all ok

/-- The sufficient conditions of R87 for a profile's tables, which can be checked entry by entry. -/
def entriesFit (p : Profile) (t : Parameters) : Bool :=
  match p with
  | .p6502 => tableAll t.t6502 entryFits6502
  | .p65C02 => tableAll t.t65C02 entryFits6502
  | .p6800 => tableAll t.t6800 entryFits6800
  | .p6809 | .p6809E => tableAll t.t6809 entryFits6809 && t.t6809X.all fun entry => entryFits6809 entry.2
  | .pZ80 => tableAll t.tZ80 (entryFitsZ80 t.absTarget)

/-- Every entry of the tables a profile reads (R31). -/
def profileEntries (p : Profile) (t : Parameters) : List Text :=
  match p with
  | .p6502 => t.t6502.toList
  | .p65C02 => t.t65C02.toList
  | .p6800 => t.t6800.toList
  | .p6809 | .p6809E => t.t6809.toList ++ t.t6809X.map Prod.snd
  | .pZ80 => t.tZ80.toList

/-- The string the formatter builds for a session, with its target annotation, before the cut (R87 W2, R113). -/
def Session.fullText (p : Profile) (t : Parameters) (x : Session) : Text :=
  let r := x.rendering p t
  match r.target with
  | none => r.body
  | some v => r.body ++ annotation v

/-- The tables of a profile are well-formed (R87). A byte sequence the profile can be fed is at most eight bytes, and the
string is built when the resolver asks for just as many. -/
structure WellFormed (p : Profile) (t : Parameters) : Prop where
  /-- W1: every entry is a non-empty string of printable characters. -/
  w1 : ∀ entry ∈ profileEntries p t, isEntry entry = true
  /-- W2: no string is longer than 28 characters with its annotation, so that the cut removes nothing. -/
  w2 : ∀ (address : Address) (bs : List Byte) (mode : AddressingMode), 1 ≤ bs.length → bs.length ≤ maxBytes →
    resolve p t (rawOf bs) bs.length = some (mode, bs.length) →
    ((Session.fetched address bs mode).fullText p t).length ≤ maxString
  /-- W3: no length is above 8. -/
  w3 : ∀ (bs : List Byte) (mode : AddressingMode) (k : Nat), 1 ≤ bs.length → bs.length ≤ maxBytes →
    resolve p t (rawOf bs) bs.length = some (mode, k) → k ≤ maxBytes

/-! ## The string of a form -/

/-- The template or mnemonic that the reference tables and the fixed constructions give a form: `T[op]` of the family's
table, the page lookup, `CBTemplate`, `EDTemplate`, the `DD`/`FD` template; a postbyte has none (R86, R140, R160, R210,
R241). -/
def rowText (lead : Lead) : Text :=
  match lead with
  | .mos6502 variant op => tableAt (table65 referenceParameters variant) op
  | .m6800 op => tableAt referenceT6800 op
  | .m6809 op => tableAt referenceT6809 op
  | .paged page op => lookup6809X referenceT6809X (be16 (pageByte page) op)
  | .z80 op => tableAt referenceTZ80 op
  | .cb op => cbTemplate op
  | .ed op => edTemplate op
  | .xy reg op => xyTemplate referenceTZ80 reg op
  | .xyCb reg _ op => rewriteHL (cbTemplate op) reg
  | .postbyte _ => []

/-- Whether a form is a row of the postbyte patterns, which is a part of an instruction (R86). -/
def isPostbyte : Lead → Bool
  | .postbyte _ => true
  | _ => false

/-- A session that has decoded the bytes `bs` at an address, completely, with this mode, target and output (R110, R113). -/
def decodedSession (address : Address) (bs : List Byte) (mode : AddressingMode) (target : Option TargetAddress)
    (output : Text) : Session where
  state := .complete
  instructionAddress := address
  rawBytes := rawOf bs
  bytesFetched := bs.length
  bytesRequired := bs.length
  addressingMode := mode
  resolvedTargetAddress := target.getD 0
  resolvedTargetValid := target.isSome
  outputString := output

end Sys2Proof.Machine
end

