-- ==== Sys2Proof/Safety.lean ====
section
/-! DEFINITION. What counts as a safe state and as a block that serves a row, in the terms the claims use. -/

namespace Sys2Proof.Machine

/-- The invariants I1 to I7 of R30, and the two facts about a session in flight that carry them from one command to the
next: while the length is unknown the resolver declines on the bytes at hand, and once it is known the resolver still
gives it (R113, R320). -/
structure SessionInv (p : Profile) (t : Parameters) (x : Session) : Prop where
  /-- I1. -/
  fetched_le_required : 0 < x.bytesRequired → x.bytesFetched ≤ x.bytesRequired
  /-- I2. -/
  complete_iff_output : x.state = .complete ↔ x.outputString ≠ []
  /-- I3, in `Idle`. -/
  idle_empty : x.state = .idle → x.bytesFetched = 0
  /-- I3, in the other states. -/
  busy_counts : x.state ≠ .idle → 1 ≤ x.bytesFetched ∧ x.bytesFetched ≤ maxBytes
  /-- I4. -/
  fetching_short : x.state = .fetching → x.bytesRequired = 0 ∨ x.bytesFetched < x.bytesRequired
  /-- I5. -/
  unfed_zero : ∀ k, x.bytesFetched ≤ k → rawAt x.rawBytes k = 0
  /-- I6. -/
  target_complete : x.resolvedTargetValid = true → x.state = .complete
  /-- I7. -/
  output_fits : x.outputString.length ≤ maxString
  /-- The length is unknown only while the resolver declines (R113). -/
  unknown_declines : x.state = .fetching → x.bytesRequired = 0 → resolve p t x.rawBytes x.bytesFetched = none
  /-- A known length is the resolver's, and stands (R113, R320). -/
  known_stands : x.state = .fetching → x.bytesRequired ≠ 0 →
    resolve p t x.rawBytes x.bytesFetched = some (x.addressingMode, x.bytesRequired)

/-- A safe state: tables that are well-formed for the profile (R87, R318), and a session that meets the invariants
(R30). -/
structure Inv (s : State) : Prop where
  wellFormed : WellFormed s.profile (parametersOf s.parameters)
  session : SessionInv s.profile (parametersOf s.parameters) s.session

/-- The block serves a lead as a row now: no instruction is in flight, the parameters are the reference ones, and the
profile reads the lead's table (R31, R86, R114). -/
def Serves (s : State) (lead : Lead) : Prop :=
  s.session.state ≠ .fetching ∧ s.parameters = .reference ∧ profileReads s.profile lead = true

/-- The profile is one of the two that decode the 6809 (R192). -/
def Is6809 (p : Profile) : Prop := p = .p6809 ∨ p = .p6809E

/-- What a command or an instruction leaves alone of the block and of the host's side: the configuration and the inbox. -/
def SameBlock (s t : State) : Prop :=
  t.profile = s.profile ∧ t.parameters = s.parameters ∧ t.feedAddress = s.feedAddress ∧ t.inbox = s.inbox

/-- The result of a row that decodes to a mode, a target and an output: every other field of the state as before. -/
def rowDone (s : State) (f : Form) (mode : AddressingMode) (target : Option TargetAddress) (output : Text) : Result :=
  .next { s with
    session := decodedSession s.feedAddress (formBytes f) mode target output
    reply := rowReply f }

end Sys2Proof.Machine
end

