-- ==== Sys2Proof/Certificates/Slice0/Obligations.lean ====
section
/-! DEFINITION. The statements for the provers. -/

open Sys2Proof Sys2Proof.Machine

/-! ## Reset and the three commands -/

/-- The session after reset has the values of R36 and R315, and `complete()` answers the empty string there. The profile
and the tables named at reset are the model's choice (log entries 2 and 3) and not stated here. -/
def Obligations.ResetSessionFields : Prop :=
  State.reset.session = {
    state := .idle, instructionAddress := 0, rawBytes := Vector.replicate 8 0, bytesFetched := 0, bytesRequired := 0,
    addressingMode := .unset, resolvedTargetAddress := 0, resolvedTargetValid := false, outputString := [] } ∧
  exec .cmdComplete State.reset = .next { State.reset with reply := .text [] }

/-- R110: `begin` outside `Fetching` resets all per-instruction fields, stores the first byte and runs the pass; nothing
else of the state changes, and it returns nothing. -/
def Obligations.BeginStartsAnInstruction : Prop :=
  ∀ (address : Address) (firstByte : Byte) (s : State), s.session.state ≠ .fetching →
    exec (.cmdBegin address firstByte) s = .next { s with
      session := Session.pass s.profile (parametersOf s.parameters) {
        state := .fetching, instructionAddress := address, rawBytes := #v[firstByte, 0, 0, 0, 0, 0, 0, 0],
        bytesFetched := 1, bytesRequired := 0, addressingMode := .unset, resolvedTargetAddress := 0,
        resolvedTargetValid := false, outputString := [] }
      reply := .nothing }

/-- R114: `begin` in `Fetching` is refused. -/
def Obligations.BeginInFetchingIsRefused : Prop :=
  ∀ (address : Address) (firstByte : Byte) (s : State), s.session.state = .fetching →
    exec (.cmdBegin address firstByte) s = .refused .beginWhileFetching

/-- R111: outside `Fetching`, `continue` changes no field and returns false (decision D4); with eight bytes held, the ninth
is not stored, and output, state and reply are the only changes (D38); else the byte is stored at `bytesFetched` and
counted, the pass runs, and the reply says whether the session is `Complete`. -/
def Obligations.ContinueInThreeCases : Prop :=
  ∀ (byte : Byte) (s : State) (x : Session), x = Session.pass s.profile (parametersOf s.parameters) { s.session with
      rawBytes := s.session.rawBytes.setIfInBounds s.session.bytesFetched byte
      bytesFetched := s.session.bytesFetched + 1 } →
    exec (.cmdContinue byte) s =
      if s.session.state ≠ .fetching then .next { s with reply := .transition false }
      else if s.session.bytesFetched = 8 then .next { s with
        session := { s.session with outputString := ascii "<decode overflow>", state := .complete }
        reply := .transition true }
      else .next { s with session := x, reply := .transition (x.state == .complete) }

/-- R112: `complete` writes no field and returns `outputString` in `Complete`, else the empty string. -/
def Obligations.CompleteReadsTheOutput : Prop :=
  ∀ s : State, exec .cmdComplete s = .next { s with
    reply := .text (if s.session.state = .complete then s.session.outputString else []) }

/-- R113: what the pass does when the resolver declines, when it answers a length not yet reached, and when the last byte
is in. The three cases exclude each other. -/
def Obligations.PassInThreeCases : Prop :=
  ∀ (p : Profile) (t : Parameters) (x : Session),
    (x.bytesRequired = 0 → resolve p t x.rawBytes x.bytesFetched = none → x.pass p t = x) ∧
    (∀ y : Session,
      (y = x ∧ x.bytesRequired ≠ 0 ∨ ∃ mode n, x.bytesRequired = 0 ∧
        resolve p t x.rawBytes x.bytesFetched = some (mode, n) ∧
        y = { x with addressingMode := mode, bytesRequired := n }) →
      (y.bytesFetched ≠ y.bytesRequired → x.pass p t = y) ∧
      (y.bytesFetched = y.bytesRequired → ∀ (body : Text) (target : Option TargetAddress) (z : Session),
        Rendering.mk body target =
          (if y.addressingMode = .invalid then ⟨ascii "<?ADDRMODE?>", none⟩ else format p t y) →
        z = (match target with
          | none => y
          | some v => { y with resolvedTargetAddress := v, resolvedTargetValid := true }) →
        x.pass p t = { z with
          outputString := (if z.resolvedTargetValid then body ++ ascii " <" ++ hex4 z.resolvedTargetAddress ++ ascii ">"
            else body).take 28
          state := .complete }))


/-- R115, R24, R25, R320: nothing leads to `Idle`; an instruction in flight keeps its address, its count of bytes never
falls, its known length never changes, and it is left by completion alone. -/
def Obligations.InFlightIsSteady : Prop :=
  ∀ (i : Instr) (s t : State), exec i s = .next t →
    (t.session.state = .idle → s.session.state = .idle) ∧
    (s.session.state = .fetching →
      t.session.instructionAddress = s.session.instructionAddress ∧
      (s.session.bytesRequired ≠ 0 → t.session.bytesRequired = s.session.bytesRequired) ∧
      (t.session.state = .fetching ∨ t.session.state = .complete) ∧
      s.session.bytesFetched ≤ t.session.bytesFetched)

/-- R24: no sequence of `continue` commands can push `bytesFetched` above 8. -/
def Obligations.ContinuesNeverPassEight : Prop :=
  ∀ (bs : List Byte) (s t : State), s.session.bytesFetched ≤ 8 → runCommands (bs.map .feed) s = .next t →
    t.session.bytesFetched ≤ 8

/-- R31, R32, R300: no step writes the profile or the parameters. -/
def Obligations.ConfigurationNeverChanges : Prop :=
  ∀ s t : State, step s = .next t → t.profile = s.profile ∧ t.parameters = s.parameters

/-- R312: every instruction answers a next state, or it is `begin` or a row that is no postbyte row, and is refused in
`Fetching`; no other refusal and no fault exists. That a whole row is refused there is the model's reading (log entry 8,
DEDUCED). The form of an ill-formed instruction says nothing of its constructor. -/
def Obligations.EveryInstructionIsTotal : Prop :=
  ∀ (i : Instr) (s : State), (∃ t, exec i s = .next t ∧ SameBlock s t) ∨
    (s.session.state = .fetching ∧ exec i s = .refused .beginWhileFetching ∧
      ((∃ address firstByte, i = .cmdBegin address firstByte) ∨
        ∃ f, instrForm i = some f ∧ (i.wf = true → isPostbyte f.lead = false)))

/-! ## Invariants and bounds -/

/-- The reset state meets the invariant. Its profile and tables are the model's choice (log entries 2 and 3). -/
def Obligations.ResetMeetsTheInvariant : Prop := Inv State.reset

/-- R30: from every state that meets the invariant, a step gives a state that meets it. -/
def Obligations.StepKeepsTheInvariant : Prop :=
  ∀ s t : State, Inv s → step s = .next t → Inv t


/-- R87: the reference tables meet the entry-wise conditions and W1 to W3, for every profile. -/
def Obligations.ReferenceParametersAreWellFormed : Prop :=
  ∀ p : Profile, entriesFit p referenceParameters = true ∧ WellFormed p referenceParameters

/-- R87: the conditions that can be checked entry by entry give W1 to W3. The condition on the width of a Z80 template is
the model's, stronger than the one the spec lists (log entry 11, DEDUCED). -/
def Obligations.EntryConditionsSuffice : Prop :=
  ∀ (p : Profile) (t : Parameters), entriesFit p t = true → WellFormed p t

/-- R87 W2: under the entry-wise conditions, what the formatter builds for bytes that the resolver has answered on, with
its annotation, has at most 28 characters and is not empty, so that the cut removes nothing. -/
def Obligations.FormattedTextFits : Prop :=
  ∀ (p : Profile) (t : Parameters) (x : Session), entriesFit p t = true →
    resolve p t x.rawBytes x.bytesFetched = some (x.addressingMode, x.bytesRequired) →
    (x.rendering p t).body ≠ [] ∧ (x.fullText p t).length ≤ 28

/-- R83, R87 W3: with well-formed tables a resolver that answers on at most 8 bytes gives a length of 1 to 8, whatever
stands in the buffer behind them; and every resolver answers once four bytes are there. -/
def Obligations.ResolverAnswersWithinEight : Prop :=
  ∀ (p : Profile) (t : Parameters) (raw : RawBytes) (n : Nat), WellFormed p t → 1 ≤ n →
    (∀ mode k, n ≤ 8 → resolve p t raw n = some (mode, k) → 1 ≤ k ∧ k ≤ 8) ∧
    (4 ≤ n → resolve p t raw n ≠ none)

/-- R116: with well-formed tables a session that has been begun is `Complete`, with a non-empty output of at most 28
characters, once seven more bytes were fed; with the reference parameters, once four more were. -/
def Obligations.CompletionIsBounded : Prop :=
  ∀ (address : Address) (firstByte : Byte) (bs : List Byte) (s : State),
    s.session.state ≠ .fetching →
    (WellFormed s.profile (parametersOf s.parameters) ∧ 7 ≤ bs.length ∨
      s.parameters = .reference ∧ 4 ≤ bs.length) →
    ∃ t, runCommands (.begin address firstByte :: bs.map .feed) s = .next t ∧ t.session.state = .complete ∧
      t.session.outputString ≠ [] ∧ t.session.outputString.length ≤ 28

/-- R57: a target is the integer sum reduced once modulo 65536. -/
def Obligations.TargetWrapsAtSixteenBits : Prop :=
  ∀ (address : Address) (delta : Int), ((targetFrom address delta).toNat : Int) = ((address.toNat : Int) + delta) % 65536

/-- R22, R56: the address given to `begin` reaches the session's address, the resolved target and the target's
annotation, and nothing else of how the bytes are decoded: with a target, the outputs of two addresses are one body with
the annotation of each run's own target, before the cut. -/
def Obligations.AddressOnlyReachesTheTarget : Prop :=
  ∀ (a b : Address) (firstByte : Byte) (bs : List Byte) (s t u : State),
    runCommands (.begin a firstByte :: bs.map .feed) s = .next t →
    runCommands (.begin b firstByte :: bs.map .feed) s = .next u →
    t.session.state = u.session.state ∧ t.session.rawBytes = u.session.rawBytes ∧
    t.session.bytesFetched = u.session.bytesFetched ∧ t.session.bytesRequired = u.session.bytesRequired ∧
    t.session.addressingMode = u.session.addressingMode ∧
    t.session.resolvedTargetValid = u.session.resolvedTargetValid ∧
    (t.session.resolvedTargetValid = false → t.session.outputString = u.session.outputString) ∧
    (t.session.resolvedTargetValid = true → ∃ body : Text,
      t.session.outputString = (body ++ ascii " <" ++ hex4 t.session.resolvedTargetAddress ++ ascii ">").take 28 ∧
      u.session.outputString = (body ++ ascii " <" ++ hex4 u.session.resolvedTargetAddress ++ ascii ">").take 28) ∧
    t.reply = u.reply

/-- R192: `P6809E` decodes exactly as `P6809`, whatever the instruction. -/
def Obligations.P6809EDecodesAsP6809 : Prop :=
  ∀ (i : Instr) (s t : State), exec i { s with profile := .p6809 } = .next t →
    exec i { s with profile := .p6809E } = .next { t with profile := .p6809E }

/-- R309: a session added to a bank starts in the reset state beside the others; a command on one session leaves every
other session, the profile and the parameters as they are, and does to its own session what it would do alone. -/
def Obligations.SessionsDoNotInterfere : Prop :=
  ∀ (bank : Bank), bank.create = { bank with sessions := bank.sessions ++ [State.reset.session] } ∧
    ∀ (bank' : Bank) (k : Nat) (c : Command) (r : Reply), bank.command k c = .next (bank', r) →
      bank'.profile = bank.profile ∧ bank'.parameters = bank.parameters ∧
      (∀ j, j ≠ k → bank'.sessions[j]? = bank.sessions[j]?) ∧
      (∀ x, bank.sessions[k]? = some x →
        ∃ s, runCommand c (bank.solo x) = .next s ∧ bank'.sessions[k]? = some s.session ∧ r = s.reply)

/-! ## Decoding and the step -/

/-- Decoding the bytes of a well-formed row gives the row back, with every operand, and leaves the bytes after it. -/
def Obligations.DecodeOfEncode : Prop :=
  ∀ (i : Instr) (f : Form) (p : Profile) (rest : List Byte), i.wf = true → instrForm i = some f →
    (isPostbyte f.lead = false → profileReads p f.lead = true → decode p .reference (encode i ++ rest) = .ok (i, rest)) ∧
    (isPostbyte f.lead = true → decodePostbyte (encode i ++ rest) = .ok (i, rest))

/-- R8, R83: every five bytes decode, in every profile; and what decodes is well-formed, and its encoding is the bytes it
was read from. -/
def Obligations.EncodeOfDecode : Prop :=
  (∀ (p : Profile) (bs : List Byte), 5 ≤ bs.length → ∃ i rest, decode p .reference bs = .ok (i, rest)) ∧
  ∀ (i : Instr) (p : Profile) (bs rest : List Byte),
    (decode p .reference bs = .ok (i, rest) ∨ decodePostbyte bs = .ok (i, rest)) →
    i.wf = true ∧ encode i ++ rest = bs ∧ 1 ≤ (encode i).length ∧ (encode i).length ≤ 5

/-- A few words written out from the encodings of R71, R74, R75 and R79. -/
def Obligations.WordsDecode : Prop :=
  decode .p6502 .reference [0b10101100, 0x00, 0x30] = .ok (.ldyAbs ⟨.mos6502 .nmos 0xAC, .word 0x3000⟩, []) ∧
  decode .p6800 .reference [0b11001110, 0x12, 0x34] = .ok (.ldx ⟨.m6800 0xCE, .word 0x1234⟩, []) ∧
  decode .p6809 .reference [0b00010000, 0b10101110, 0b10001001, 0x12, 0x34] =
    .ok (.ldy ⟨.paged .page2 0xAE, .index16 0b10001001 0x1234⟩, []) ∧
  decode .pZ80 .reference [0b11011101, 0b11001011, 0xFE, 0b01000110] =
    .ok (.bit_0_mXYd ⟨.xyCb .ix 0xFE 0b01000110, .none⟩, [])

/-- A step runs the instruction it reads: outside `Fetching` the row that captured bytes decode to, with the feed address
set and the bytes taken; in `Fetching` the postbyte row that is awaited, or one `continue`; a command of the host, as it
is; and nothing when there is nothing to send. The inbox and the feed address are the model's own fields, and that the
addresses of a capture wrap is its choice (log entries 4, 5 and 24). -/
def Obligations.StepRunsWhatItReads : Prop :=
  (∀ (s : State) (a : Address) (bs rest : List Byte) (rs : List Request) (i : Instr),
    s.inbox = .capture a bs :: rs → s.session.state ≠ .fetching → decode s.profile s.parameters bs = .ok (i, rest) →
    step s = exec i { s with
      feedAddress := a
      inbox := .capture (a + BitVec.ofNat 32 (bs.length - rest.length)) (bs.drop (bs.length - rest.length)) :: rs }) ∧
  (∀ (s : State) (a : Address) (b : Byte) (bs : List Byte) (rs : List Request),
    s.inbox = .capture a (b :: bs) :: rs → s.session.state = .fetching →
    (awaitsPostbyte s = false →
      step s = exec (.cmdContinue b) { s with feedAddress := a, inbox := .capture (a + 1) bs :: rs }) ∧
    (awaitsPostbyte s = true → ∀ i rest, decodePostbyte (b :: bs) = .ok (i, rest) →
      step s = exec i { s with
        feedAddress := a
        inbox := .capture (a + BitVec.ofNat 32 (bs.length + 1 - rest.length))
          ((b :: bs).drop (bs.length + 1 - rest.length)) :: rs })) ∧
  (∀ (s : State) (c : Command) (rs : List Request), s.inbox = .command c :: rs →
    step s = exec c.instr { s with inbox := rs }) ∧
  (∀ s : State, s.inbox = [] → step s = .next s)

/-- R117: a row, from its own text, does what its bytes do when they are fed one by one: `begin` at the feed address with
the first byte, `continue` with each other byte. This holds of every well-formed row, in every state. That a row on a
block of another profile or other tables is its bytes, and that a whole row is refused in `Fetching`, is the model's
choice (log entries 7 and 8). -/
def Obligations.RowIsItsCommands : Prop :=
  ∀ (i : Instr) (f : Form) (s : State) (b : Byte) (bs : List Byte), i.wf = true → instrForm i = some f →
    isPostbyte f.lead = false → encode i = b :: bs →
    exec i s = runCommands (.begin s.feedAddress b :: bs.map .feed) s

/-- A postbyte row is its bytes fed with `continue`: it answers a next state from every state, and changes the session and
the reply at most. That a postbyte row of the table is run so, on the session in flight, is the model's choice (log
entry 18); its bytes are those of R187 and R190. -/
def Obligations.PostbyteRowIsItsCommands : Prop :=
  ∀ (i : Instr) (f : Form) (s : State), i.wf = true → instrForm i = some f → isPostbyte f.lead = true →
    ∃ t, exec i s = .next t ∧ runCommands ((encode i).map .feed) s = .next t ∧ SameBlock s t

/-- R187 to R191: an indexed 6809 row is its lead bytes fed first and then its postbyte row. -/
def Obligations.PostbyteRowFinishesTheIndexedRow : Prop :=
  ∀ (i j : Instr) (lead : Lead) (operand : Operand) (pb : Byte) (rest : Operand) (b : Byte) (bs : List Byte) (s u : State),
    i.wf = true → instrForm i = some ⟨lead, operand⟩ → leadKind lead = .indexed →
    j.wf = true → instrForm j = some ⟨.postbyte pb, rest⟩ → encode i = leadBytes lead ++ encode j →
    leadBytes lead = b :: bs → Serves s lead →
    runCommands (.begin s.feedAddress b :: bs.map .feed) s = .next u →
    u.session.state = .fetching ∧ exec j u = exec i s

/-- R116, R312: every well-formed row that the block serves completes: all its bytes are counted, and the output is not
empty and has at most 28 characters. -/
def Obligations.EveryServedRowCompletes : Prop :=
  ∀ (i : Instr) (f : Form) (s : State), i.wf = true → instrForm i = some f → Serves s f.lead →
    isPostbyte f.lead = false →
    ∃ t, exec i s = .next t ∧ SameBlock s t ∧ t.session.state = .complete ∧
      t.session.instructionAddress = s.feedAddress ∧ t.session.bytesFetched = (encode i).length ∧
      t.session.bytesRequired = (encode i).length ∧ t.session.outputString ≠ [] ∧ t.session.outputString.length ≤ 28

/-! ## 6502 and 65C02 rows -/

/-- R143: a row without a marker prints its template and sets no target; the unknown opcodes are among these rows. -/
def Obligations.Mos6502ImpliedRow : Prop :=
  ∀ (i : Instr) (s : State) (variant : Variant65) (op : Byte), i.wf = true →
    instrForm i = some ⟨.mos6502 variant op, .none⟩ → Serves s (.mos6502 variant op) →
    exec i s = rowDone s ⟨.mos6502 variant op, .none⟩ .m65Implied none (rowText (.mos6502 variant op))

/-- R144: a row with the marker `nn` prints the operand byte in its place and sets no target. -/
def Obligations.Mos6502ByteRow : Prop :=
  ∀ (i : Instr) (s : State) (variant : Variant65) (op b : Byte), i.wf = true →
    instrForm i = some ⟨.mos6502 variant op, .byte b⟩ → contains (rowText (.mos6502 variant op)) (ascii "nn") = true →
    Serves s (.mos6502 variant op) →
    exec i s = rowDone s ⟨.mos6502 variant op, .byte b⟩ .m65Byte none
      (replaceFirst (rowText (.mos6502 variant op)) (ascii "nn") (hex2 b))

/-- R145: a row with the marker `nnnn` prints its word, first stream byte low, in its place and sets no target. That an
absolute operand sets none is the spec's own choice (D39; log entry 14 carries the other reading). -/
def Obligations.Mos6502WordRow : Prop :=
  ∀ (i : Instr) (s : State) (variant : Variant65) (op : Byte) (w : BitVec 16), i.wf = true →
    instrForm i = some ⟨.mos6502 variant op, .word w⟩ → Serves s (.mos6502 variant op) →
    formBytes ⟨.mos6502 variant op, .word w⟩ = [op, w.extractLsb' 0 8, w.extractLsb' 8 8] ∧
    exec i s = rowDone s ⟨.mos6502 variant op, .word w⟩ .m65Word none
      (replaceFirst (rowText (.mos6502 variant op)) (ascii "nnnn") (hex4 w))

/-- R146: a row with the relative marker prints the signed offset and resolves `address + 2 + offset`. -/
def Obligations.Mos6502RelativeRow : Prop :=
  ∀ (i : Instr) (s : State) (variant : Variant65) (op b : Byte) (target : TargetAddress), i.wf = true →
    instrForm i = some ⟨.mos6502 variant op, .byte b⟩ → contains (rowText (.mos6502 variant op)) (ascii "nn") = false →
    Serves s (.mos6502 variant op) → target = BitVec.ofInt 16 ((s.feedAddress.toNat : Int) + 2 + b.toInt) →
    exec i s = rowDone s ⟨.mos6502 variant op, .byte b⟩ .m65Rel (some target)
      (replaceFirst (rowText (.mos6502 variant op)) (ascii "rrrr") (sdec b.toInt) ++ ascii " <" ++ hex4 target ++ ascii ">")

/-! ## 6800 rows -/

/-- R164: an inherent row prints its mnemonic only; the unknown opcodes of the inherent ranges are among these rows. The
ranges are those of R161, the spec's own choice (D18, log entry 21). -/
def Obligations.M6800InherentRow : Prop :=
  ∀ (i : Instr) (s : State) (op : Byte), i.wf = true → instrForm i = some ⟨.m6800 op, .none⟩ → Serves s (.m6800 op) →
    highNibble op ∈ [0x0, 0x1, 0x3, 0x4, 0x5] ∧
    exec i s = rowDone s ⟨.m6800 op, .none⟩ .m68Inherent none (rowText (.m6800 op))

/-- R165: a relative row prints the signed offset and resolves `address + 2 + offset`. -/
def Obligations.M6800RelativeRow : Prop :=
  ∀ (i : Instr) (s : State) (op b : Byte) (target : TargetAddress), i.wf = true →
    instrForm i = some ⟨.m6800 op, .byte b⟩ → (op = 0x8D ∨ highNibble op = 0x2) → Serves s (.m6800 op) →
    target = BitVec.ofInt 16 ((s.feedAddress.toNat : Int) + 2 + b.toInt) →
    exec i s = rowDone s ⟨.m6800 op, .byte b⟩ .m68Relative (some target)
      (rowText (.m6800 op) ++ ascii " " ++ sdec b.toInt ++ ascii " <" ++ hex4 target ++ ascii ">")

/-- R166: an indexed row prints `$hh,X`. -/
def Obligations.M6800IndexedRow : Prop :=
  ∀ (i : Instr) (s : State) (op b : Byte), i.wf = true → instrForm i = some ⟨.m6800 op, .byte b⟩ →
    highNibble op ∈ [0x6, 0xA, 0xE] → Serves s (.m6800 op) →
    exec i s = rowDone s ⟨.m6800 op, .byte b⟩ .m68Indexed none
      (rowText (.m6800 op) ++ ascii " $" ++ hex2 b ++ ascii ",X")

/-- R167: an extended row prints `$hhhh`, the first operand byte high, and a direct row prints `$hh`; neither sets a
target. -/
def Obligations.M6800AddressRow : Prop :=
  (∀ (i : Instr) (s : State) (op : Byte) (w : BitVec 16), i.wf = true → instrForm i = some ⟨.m6800 op, .word w⟩ →
    highNibble op ∈ [0x7, 0xB, 0xF] → Serves s (.m6800 op) →
    formBytes ⟨.m6800 op, .word w⟩ = [op, w.extractLsb' 8 8, w.extractLsb' 0 8] ∧
    exec i s = rowDone s ⟨.m6800 op, .word w⟩ .m68Extended none (rowText (.m6800 op) ++ ascii " $" ++ hex4 w)) ∧
  (∀ (i : Instr) (s : State) (op b : Byte), i.wf = true → instrForm i = some ⟨.m6800 op, .byte b⟩ →
    highNibble op ∈ [0x9, 0xD] → Serves s (.m6800 op) →
    exec i s = rowDone s ⟨.m6800 op, .byte b⟩ .m68Direct none (rowText (.m6800 op) ++ ascii " $" ++ hex2 b))

/-- R168: an 8-bit immediate row prints `#$hh`, `0x8C` among them, and `0x8E` and `0xCE` print `#$hhhh`. -/
def Obligations.M6800ImmediateRow : Prop :=
  (∀ (i : Instr) (s : State) (op b : Byte), i.wf = true → instrForm i = some ⟨.m6800 op, .byte b⟩ →
    highNibble op ∈ [0x8, 0xC] → op ≠ 0x8D → Serves s (.m6800 op) →
    exec i s = rowDone s ⟨.m6800 op, .byte b⟩ .m68Imm8 none (rowText (.m6800 op) ++ ascii " #$" ++ hex2 b)) ∧
  (∀ (i : Instr) (s : State) (op : Byte) (w : BitVec 16), i.wf = true → instrForm i = some ⟨.m6800 op, .word w⟩ →
    highNibble op ∈ [0x8, 0xC] → Serves s (.m6800 op) →
    (op = 0x8E ∨ op = 0xCE) ∧
    exec i s = rowDone s ⟨.m6800 op, .word w⟩ .m68Imm16 none (rowText (.m6800 op) ++ ascii " #$" ++ hex4 w))

/-! ## 6809 rows: `lead` is an unprefixed or a page-prefixed opcode, `baseMode6809` the map of R183 to R186 -/

/-- The opcode map of R183 to R186, by its ranges and exceptions; `none` stands for INDEXED. -/
def Obligations.M6809OpcodeMap : Prop :=
  ∀ (op : Byte) (paged : Bool), baseMode6809 op paged =
    (if op.toNat < 0x10 then some .m09Direct
    else if op.toNat < 0x20 then
      (if op ∈ ([0x16, 0x17] : List Byte) then some .m09Rel16
      else if op ∈ ([0x1A, 0x1C] : List Byte) then some .m09Imm8
      else if op ∈ ([0x1E, 0x1F] : List Byte) then some .m09RegPair
      else some .m09Inherent)
    else if op.toNat < 0x30 then some (if paged then .m09Rel16 else .m09Rel8)
    else if op.toNat < 0x34 then none
    else if op.toNat < 0x38 then some .m09RegList
    else if op = 0x3C then some .m09Imm8
    else if op.toNat < 0x60 then some .m09Inherent
    else if op.toNat < 0x70 ∨ 0xA0 ≤ op.toNat ∧ op.toNat < 0xB0 ∨ 0xE0 ≤ op.toNat ∧ op.toNat < 0xF0 then none
    else if op = 0x8D then some .m09Rel8
    else if op ∈ ([0x83, 0x8C, 0x8E, 0xC3, 0xCC, 0xCE] : List Byte) then some .m09Imm16
    else if op.toNat < 0x80 ∨ 0xB0 ≤ op.toNat ∧ op.toNat < 0xC0 ∨ 0xF0 ≤ op.toNat then some .m09Extended
    else if op.toNat < 0x90 ∨ 0xC0 ≤ op.toNat ∧ op.toNat < 0xD0 then some .m09Imm8
    else some .m09Direct)


/-- R211: an inherent row prints its mnemonic only, `?` among them. -/
def Obligations.M6809InherentRow : Prop :=
  ∀ (i : Instr) (s : State) (lead : Lead), i.wf = true → instrForm i = some ⟨lead, .none⟩ → Is6809 s.profile →
    isPostbyte lead = false → Serves s lead → exec i s = rowDone s ⟨lead, .none⟩ .m09Inherent none (rowText lead)

/-- R212 and R214: a direct row prints `<$hh`, an 8-bit immediate row `#$hh`. -/
def Obligations.M6809ByteRow : Prop :=
  ∀ (i : Instr) (s : State) (lead : Lead) (b : Byte), i.wf = true → instrForm i = some ⟨lead, .byte b⟩ →
    Is6809 s.profile → isPostbyte lead = false → Serves s lead →
    (baseMode6809 (leadOp lead) (leadBytes lead).tail.isEmpty.not = some .m09Direct →
      exec i s = rowDone s ⟨lead, .byte b⟩ .m09Direct none (rowText lead ++ ascii " <$" ++ hex2 b)) ∧
    (baseMode6809 (leadOp lead) (leadBytes lead).tail.isEmpty.not = some .m09Imm8 →
      exec i s = rowDone s ⟨lead, .byte b⟩ .m09Imm8 none (rowText lead ++ ascii " #$" ++ hex2 b))

/-- R213 and R215: an extended row prints `$hhhh`, a 16-bit immediate row `#$hhhh`; neither sets a target. -/
def Obligations.M6809WordRow : Prop :=
  ∀ (i : Instr) (s : State) (lead : Lead) (w : BitVec 16), i.wf = true → instrForm i = some ⟨lead, .word w⟩ →
    Is6809 s.profile → isPostbyte lead = false → Serves s lead →
    (baseMode6809 (leadOp lead) (leadBytes lead).tail.isEmpty.not = some .m09Extended →
      exec i s = rowDone s ⟨lead, .word w⟩ .m09Extended none (rowText lead ++ ascii " $" ++ hex4 w)) ∧
    (baseMode6809 (leadOp lead) (leadBytes lead).tail.isEmpty.not = some .m09Imm16 →
      exec i s = rowDone s ⟨lead, .word w⟩ .m09Imm16 none (rowText lead ++ ascii " #$" ++ hex4 w))

/-- R216 and R217: a relative row prints the signed offset and resolves `address + length + offset`, whatever the page. -/
def Obligations.M6809RelativeRow : Prop :=
  ∀ (i : Instr) (s : State) (lead : Lead) (operand : Operand) (offset : Int) (mode : AddressingMode)
    (target : TargetAddress), i.wf = true → instrForm i = some ⟨lead, operand⟩ → Is6809 s.profile → Serves s lead →
    isPostbyte lead = false → baseMode6809 (leadOp lead) (leadBytes lead).tail.isEmpty.not = some mode →
    ((∃ b : Byte, operand = .byte b ∧ offset = b.toInt ∧ mode = .m09Rel8) ∨
      ∃ w : BitVec 16, operand = .word w ∧ offset = w.toInt ∧ mode = .m09Rel16) →
    target = BitVec.ofInt 16 ((s.feedAddress.toNat : Int) + ((encode i).length : Int) + offset) →
    exec i s = rowDone s ⟨lead, operand⟩ mode (some target)
      (rowText lead ++ ascii " " ++ sdec offset ++ ascii " <" ++ hex4 target ++ ascii ">")

/-- R218: an exchange or transfer row prints the two registers of its postbyte; a code without a register prints `?`. -/
def Obligations.M6809RegisterPairRow : Prop :=
  ∀ (i : Instr) (s : State) (lead : Lead) (pb : Byte), i.wf = true → instrForm i = some ⟨lead, .byte pb⟩ →
    Is6809 s.profile → Serves s lead → isPostbyte lead = false → leadOp lead ∈ ([0x1E, 0x1F] : List Byte) →
    ∀ name : Nat → Text, name = (fun n =>
        ascii (["D", "X", "Y", "U", "S", "PC", "?", "?", "A", "B", "CCR", "DPR", "?", "?", "?", "?"].getD n "")) →
      exec i s = rowDone s ⟨lead, .byte pb⟩ .m09RegPair none
        (rowText lead ++ ascii " " ++ name (pb.toNat / 16) ++ ascii "," ++ name (pb.toNat % 16))

/-- R219: a push or pull row prints the names of its set bits from bit 0 to bit 7, with commas, and the mnemonic alone
when no bit is set; bit 6 is `U` on `0x36` and `0x37` and `S` on `0x34` and `0x35`. -/
def Obligations.M6809RegisterListRow : Prop :=
  ∀ (i : Instr) (s : State) (lead : Lead) (pb : Byte), i.wf = true → instrForm i = some ⟨lead, .byte pb⟩ →
    Is6809 s.profile → Serves s lead → isPostbyte lead = false →
    leadOp lead ∈ ([0x34, 0x35, 0x36, 0x37] : List Byte) →
    ∀ names : List Text, names = ((List.range 8).filter fun b => pb.getLsbD b).map (fun b =>
        ascii (["CCR", "A", "B", "DPR", "X", "Y", if 0x36 ≤ (leadOp lead).toNat then "U" else "S", "PC"].getD b "")) →
      exec i s = rowDone s ⟨lead, .byte pb⟩ .m09RegList none
        (if names = [] then rowText lead else rowText lead ++ ascii " " ++ commaJoin names)

/-- R220: a postbyte with bit 7 clear prints its signed 5-bit offset and its register. -/
def Obligations.M6809FiveBitRow : Prop :=
  ∀ (i : Instr) (s : State) (lead : Lead) (pb : Byte), i.wf = true → instrForm i = some ⟨lead, .index pb⟩ →
    Is6809 s.profile → Serves s lead → pb.getLsbD 7 = false →
    exec i s = rowDone s ⟨lead, .index pb⟩ (.m09Indexed .idx5 false) none
      (rowText lead ++ ascii " " ++ sdec (pb.setWidth 5).toInt ++ ascii "," ++ indexRegName pb)

/-- R221, R224, R225, R228: the kinds without an offset, by bits 3..0 of the postbyte, with bit 4 for the brackets where
the kind allows them. -/
def Obligations.M6809NoOffsetRow : Prop :=
  ∀ (i : Instr) (s : State) (lead : Lead) (pb : Byte) (kind : IndexKind) (inner : Text), i.wf = true →
    instrForm i = some ⟨lead, .index pb⟩ → Is6809 s.profile → Serves s lead → pb.getLsbD 7 = true →
    (pb.toNat % 16, kind, inner) ∈ [
      (0x0, .inc1, ascii "," ++ indexRegName pb ++ ascii "+"), (0x1, .inc2, ascii "," ++ indexRegName pb ++ ascii "++"),
      (0x2, .dec1, ascii ",-" ++ indexRegName pb), (0x3, .dec2, ascii ",--" ++ indexRegName pb),
      (0x4, .zero, ascii "," ++ indexRegName pb), (0x5, .acc, ascii "B," ++ indexRegName pb),
      (0x6, .acc, ascii "A," ++ indexRegName pb), (0xB, .acc, ascii "D," ++ indexRegName pb)] →
    (pb.getLsbD 4 = true → kind ≠ .inc1 ∧ kind ≠ .dec1) →
    exec i s = rowDone s ⟨lead, .index pb⟩ (.m09Indexed kind (pb.getLsbD 4)) none
      (rowText lead ++ ascii " " ++ (if pb.getLsbD 4 then ascii "[" ++ inner ++ ascii "]" else inner))

/-- R222 and R228: an 8-bit constant offset prints in signed decimal before the register. -/
def Obligations.M6809Const8Row : Prop :=
  ∀ (i : Instr) (s : State) (lead : Lead) (pb b : Byte) (inner : Text), i.wf = true →
    instrForm i = some ⟨lead, .index8 pb b⟩ → Is6809 s.profile → Serves s lead → pb.toNat % 16 = 0x8 →
    inner = sdec b.toInt ++ ascii "," ++ indexRegName pb →
    exec i s = rowDone s ⟨lead, .index8 pb b⟩ (.m09Indexed .const8 (pb.getLsbD 4)) none
      (rowText lead ++ ascii " " ++ (if pb.getLsbD 4 then ascii "[" ++ inner ++ ascii "]" else inner))

/-- R223: a 16-bit constant offset prints its operand without a page byte; behind a page byte it prints the operand's low
byte as the high byte, and zero. -/
def Obligations.M6809Const16Row : Prop :=
  ∀ (i : Instr) (s : State) (lead : Lead) (pb : Byte) (w : BitVec 16) (inner : Text), i.wf = true →
    instrForm i = some ⟨lead, .index16 pb w⟩ → Is6809 s.profile → Serves s lead → pb.toNat % 16 = 0x9 →
    inner = (match lead with
      | .paged _ _ => sdec (w <<< 8).toInt
      | _ => sdec w.toInt) ++ ascii "," ++ indexRegName pb →
    exec i s = rowDone s ⟨lead, .index16 pb w⟩ (.m09Indexed .const16 (pb.getLsbD 4)) none
      (rowText lead ++ ascii " " ++ (if pb.getLsbD 4 then ascii "[" ++ inner ++ ascii "]" else inner))

/-- R226 and R228: a PC-relative row prints its signed offset before `PCR` and resolves `address + length + offset`, the
same with brackets. -/
def Obligations.M6809PcRelativeRow : Prop :=
  ∀ (i : Instr) (s : State) (lead : Lead) (operand : Operand) (pb : Byte) (offset : Int) (kind : IndexKind) (inner : Text)
    (target : TargetAddress), i.wf = true → instrForm i = some ⟨lead, operand⟩ → Is6809 s.profile → Serves s lead →
    ((∃ b : Byte, operand = .index8 pb b ∧ offset = b.toInt ∧ kind = .pcr8 ∧ pb.toNat % 16 = 0xC) ∨
      ∃ w : BitVec 16, operand = .index16 pb w ∧ offset = w.toInt ∧ kind = .pcr16 ∧ pb.toNat % 16 = 0xD) →
    inner = sdec offset ++ ascii ",PCR" →
    target = BitVec.ofInt 16 ((s.feedAddress.toNat : Int) + ((encode i).length : Int) + offset) →
    exec i s = rowDone s ⟨lead, operand⟩ (.m09Indexed kind (pb.getLsbD 4)) (some target)
      (rowText lead ++ ascii " " ++ (if pb.getLsbD 4 then ascii "[" ++ inner ++ ascii "]" else inner) ++ ascii " <" ++ hex4 target
        ++ ascii ">")

/-- R227: the postbyte `0x9F` prints its word in brackets and sets no target. -/
def Obligations.M6809ExtendedIndirectRow : Prop :=
  ∀ (i : Instr) (s : State) (lead : Lead) (w : BitVec 16), i.wf = true → instrForm i = some ⟨lead, .index16 0x9F w⟩ →
    Is6809 s.profile → Serves s lead →
    exec i s = rowDone s ⟨lead, .index16 0x9F w⟩ (.m09Indexed .extInd true) none
      (rowText lead ++ ascii " [$" ++ hex4 w ++ ascii "]")

/-- R191, R229, R293: a postbyte that matches no pattern completes with the literal text, no mnemonic and no target. -/
def Obligations.M6809InvalidPostbyteRow : Prop :=
  ∀ (i : Instr) (s : State) (lead : Lead) (pb : Byte), i.wf = true → instrForm i = some ⟨lead, .index pb⟩ →
    Is6809 s.profile → Serves s lead → postbyteMode pb = .invalid →
    exec i s = rowDone s ⟨lead, .index pb⟩ .invalid none (ascii "<?ADDRMODE?>")

/-! ## Z80 rows -/

/-- R243, R245, R246, R247, R252: a row whose template has no placeholder prints its template. -/
def Obligations.Z80PlainRow : Prop :=
  ∀ (i : Instr) (s : State) (lead : Lead), i.wf = true → instrForm i = some ⟨lead, .none⟩ → s.profile = .pZ80 →
    Serves s lead → (∀ reg disp op, lead ≠ .xyCb reg disp op) →
    exec i s = rowDone s ⟨lead, .none⟩ .mz80Template none (rowText lead)

/-- R266: `XXXXh` prints the word, first stream byte low, in four digits and `h`, and sets no target. -/
def Obligations.Z80WordRow : Prop :=
  ∀ (i : Instr) (s : State) (lead : Lead) (w : BitVec 16), i.wf = true → instrForm i = some ⟨lead, .word w⟩ →
    s.profile = .pZ80 → Serves s lead →
    formBytes ⟨lead, .word w⟩ = leadBytes lead ++ [w.extractLsb' 0 8, w.extractLsb' 8 8] ∧
    exec i s = rowDone s ⟨lead, .word w⟩ .mz80Template none
      (replaceFirst (rowText lead) (ascii "XXXXh") (hex4 w ++ ascii "h"))

/-- R267, R268, R269: a one-byte placeholder prints a byte, an offset plus 2 with its target, or a displacement. -/
def Obligations.Z80ByteRow : Prop :=
  ∀ (i : Instr) (s : State) (lead : Lead) (b : Byte), i.wf = true → instrForm i = some ⟨lead, .byte b⟩ →
    s.profile = .pZ80 → Serves s lead →
    (contains (rowText lead) (ascii "XXh") = true →
      exec i s = rowDone s ⟨lead, .byte b⟩ .mz80Template none
        (replaceFirst (rowText lead) (ascii "XXh") (hex2 b ++ ascii "h"))) ∧
    (contains (rowText lead) (ascii "+ddd") = true →
      exec i s = rowDone s ⟨lead, .byte b⟩ .mz80Template none
        (replaceFirst (rowText lead) (ascii "+ddd") (pdec b.toInt))) ∧
    (contains (rowText lead) (ascii "rrrr") = true →
      ∀ target, target = BitVec.ofInt 16 ((s.feedAddress.toNat : Int) + (b.toInt + 2)) →
      exec i s = rowDone s ⟨lead, .byte b⟩ .mz80Template (some target)
        (replaceFirst (rowText lead) (ascii "rrrr") (sdec (b.toInt + 2)) ++ ascii " <" ++ hex4 target ++ ascii ">"))

/-- R269: where a displacement and a byte stand, the displacement is the first operand byte. -/
def Obligations.Z80DisplacementByteRow : Prop :=
  ∀ (i : Instr) (s : State) (lead : Lead) (d b : Byte), i.wf = true → instrForm i = some ⟨lead, .dispByte d b⟩ →
    s.profile = .pZ80 → Serves s lead →
    formBytes ⟨lead, .dispByte d b⟩ = leadBytes lead ++ [d, b] ∧
    exec i s = rowDone s ⟨lead, .dispByte d b⟩ .mz80Template none
      (replaceFirst (replaceFirst (rowText lead) (ascii "+ddd") (pdec d.toInt)) (ascii "XXh") (hex2 b ++ ascii "h"))

/-- R251: the compound form is four bytes; its displacement is the third byte and its operation the fourth; where the
operation names a register, that register is printed and the displacement ignored. -/
def Obligations.Z80CompoundRow : Prop :=
  ∀ (i : Instr) (s : State) (reg : IndexReg) (d op : Byte), i.wf = true →
    instrForm i = some ⟨.xyCb reg d op, .none⟩ → s.profile = .pZ80 → Serves s (.xyCb reg d op) →
    formBytes ⟨.xyCb reg d op, .none⟩ = [(match reg with | .ix => 0xDD | .iy => 0xFD), 0xCB, d, op] ∧
    exec i s = rowDone s ⟨.xyCb reg d op, .none⟩ .mz80Template none
      (if op.toNat % 8 = 6 then replaceFirst (rewriteHL (cbTemplate op) reg) (ascii "+ddd") (pdec d.toInt)
      else cbTemplate op)

/-- R246: the `CB` template, by the fields of the opcode byte. -/
def Obligations.Z80RotateAndBitTemplates : Prop :=
  ∀ (op : Byte) (r8 : Text), r8 = ascii (["B", "C", "D", "E", "H", "L", "(HL)", "A"].getD (op.toNat % 8) "") →
    cbTemplate op =
      if op.toNat < 64 then
        ascii (["RLC", "RRC", "RL", "RR", "SLA", "SRA", "?", "SRL"].getD (op.toNat / 8 % 8) "") ++ ascii " " ++ r8
      else ascii (["", "BIT ", "RES ", "SET "].getD (op.toNat / 64) "") ++ decimal (op.toNat / 8 % 8) ++ ascii "," ++ r8

/-- R245: the `ED` template, by the fields of the opcode byte and the two lists of names. -/
def Obligations.Z80ExtendedTemplates : Prop :=
  ∀ (op : Byte) (rr r8io : Text),
    rr = ascii (["BC", "DE", "HL", "SP"].getD (op.toNat / 16 % 4) "") →
    r8io = ascii (["B", "C", "D", "E", "H", "L", "?", "A"].getD (op.toNat / 8 % 8) "") →
    edTemplate op =
      if op.toNat / 64 = 1 then
        match op.toNat % 16 with
        | 0x0 | 0x8 => ascii "IN " ++ r8io ++ ascii ",(C)"
        | 0x1 | 0x9 => ascii "OUT (C)," ++ r8io
        | 0x2 => ascii "SBC HL," ++ rr
        | 0xA => ascii "ADC HL," ++ rr
        | 0x3 => ascii "LD (XXXXh)," ++ rr
        | 0xB => ascii "LD " ++ rr ++ ascii ",(XXXXh)"
        | _ => ascii (([(0x44, "NEG"), (0x45, "RETN"), (0x4D, "RETI"), (0x46, "IM 0"), (0x56, "IM 1"), (0x5E, "IM 2"),
            (0x47, "LD I,A"), (0x4F, "LD R,A"), (0x57, "LD A,I"), (0x5F, "LD A,R"), (0x67, "RRD"),
            (0x6F, "RLD")].lookup op.toNat).getD "?")
      else
        ascii (([(0xA0, "LDI"), (0xA1, "CPI"), (0xA2, "INI"), (0xA3, "OUTI"), (0xA8, "LDD"), (0xA9, "CPD"), (0xAA, "IND"),
          (0xAB, "OUTD"), (0xB0, "LDIR"), (0xB1, "CPIR"), (0xB2, "INIR"), (0xB3, "OTIR"), (0xB8, "LDDR"),
          (0xB9, "CPDR"), (0xBA, "INDR"), (0xBB, "OTDR")].lookup op.toNat).getD "?")

/-- R247: the rewrite leaves a template without `HL` as it is and leaves no `HL` behind; at an occurrence of `HL` in any
template it puts `IX` or `IY`, with `+ddd` behind it where the occurrence stands directly between parentheses, and rewrites
what stands before and after; `JP (HL)`, compared whole, gets no `+ddd` (D28), so the parts beside an occurrence are taken
other than it. -/
def Obligations.Z80RewriteReplacesEveryHL : Prop :=
  ∀ reg : IndexReg,
    (∀ t, contains t (ascii "HL") = false → rewriteHL t reg = t) ∧
    (∀ t, contains (rewriteHL t reg) (ascii "HL") = false) ∧
    (rewriteHL (ascii "JP (HL)") reg = ascii (match reg with | .ix => "JP (IX)" | .iy => "JP (IY)")) ∧
    (∀ t before after : Text, t = before ++ ascii "HL" ++ after → ascii "JP (HL)" ∉ [t, before, after] →
      rewriteHL t reg = rewriteHL before reg ++ ascii (match reg with | .ix => "IX" | .iy => "IY") ++
        (if before.getLast? = some (asciiChar '(') ∧ after.head? = some (asciiChar ')') then ascii "+ddd" else []) ++
        rewriteHL after reg)
end

