-- ==== Sys2Proof/Laws/State.lean ====
section
/-! SUPPORT. The fields of a session after each named update, true by unfolding. -/

namespace Sys2Proof.Machine

variable (text : Text) (byte : Byte) (v : TargetAddress) (x : Session) (address : Address) (firstByte : Byte)

@[simp] theorem completeWith_state : (x.completeWith text).state = .complete := rfl
@[simp] theorem completeWith_address : (x.completeWith text).instructionAddress = x.instructionAddress := rfl
@[simp] theorem completeWith_raw : (x.completeWith text).rawBytes = x.rawBytes := rfl
@[simp] theorem completeWith_fetched : (x.completeWith text).bytesFetched = x.bytesFetched := rfl
@[simp] theorem completeWith_required : (x.completeWith text).bytesRequired = x.bytesRequired := rfl
@[simp] theorem completeWith_mode : (x.completeWith text).addressingMode = x.addressingMode := rfl
@[simp] theorem completeWith_target : (x.completeWith text).resolvedTargetAddress = x.resolvedTargetAddress := rfl
@[simp] theorem completeWith_valid : (x.completeWith text).resolvedTargetValid = x.resolvedTargetValid := rfl
@[simp] theorem completeWith_output : (x.completeWith text).outputString = text := rfl

@[simp] theorem withTarget_none : x.withTarget none = x := rfl
@[simp] theorem withTarget_state (o : Option TargetAddress) : (x.withTarget o).state = x.state := by cases o <;> rfl
@[simp] theorem withTarget_address (o : Option TargetAddress) :
    (x.withTarget o).instructionAddress = x.instructionAddress := by cases o <;> rfl
@[simp] theorem withTarget_raw (o : Option TargetAddress) : (x.withTarget o).rawBytes = x.rawBytes := by cases o <;> rfl
@[simp] theorem withTarget_fetched (o : Option TargetAddress) : (x.withTarget o).bytesFetched = x.bytesFetched := by
  cases o <;> rfl
@[simp] theorem withTarget_required (o : Option TargetAddress) : (x.withTarget o).bytesRequired = x.bytesRequired := by
  cases o <;> rfl
@[simp] theorem withTarget_mode (o : Option TargetAddress) : (x.withTarget o).addressingMode = x.addressingMode := by
  cases o <;> rfl
@[simp] theorem withTarget_output (o : Option TargetAddress) : (x.withTarget o).outputString = x.outputString := by
  cases o <;> rfl
@[simp] theorem withTarget_some_target : (x.withTarget (some v)).resolvedTargetAddress = v := rfl
@[simp] theorem withTarget_some_valid : (x.withTarget (some v)).resolvedTargetValid = true := rfl

@[simp] theorem append_state : (x.append byte).state = x.state := rfl
@[simp] theorem append_address : (x.append byte).instructionAddress = x.instructionAddress := rfl
@[simp] theorem append_raw : (x.append byte).rawBytes = x.rawBytes.setIfInBounds x.bytesFetched byte := rfl
@[simp] theorem append_fetched : (x.append byte).bytesFetched = x.bytesFetched + 1 := rfl
@[simp] theorem append_required : (x.append byte).bytesRequired = x.bytesRequired := rfl
@[simp] theorem append_mode : (x.append byte).addressingMode = x.addressingMode := rfl
@[simp] theorem append_target : (x.append byte).resolvedTargetAddress = x.resolvedTargetAddress := rfl
@[simp] theorem append_valid : (x.append byte).resolvedTargetValid = x.resolvedTargetValid := rfl
@[simp] theorem append_output : (x.append byte).outputString = x.outputString := rfl

@[simp] theorem started_state : (Session.started address firstByte).state = .fetching := rfl
@[simp] theorem started_address : (Session.started address firstByte).instructionAddress = address := rfl
@[simp] theorem started_raw : (Session.started address firstByte).rawBytes = #v[firstByte, 0, 0, 0, 0, 0, 0, 0] := rfl
@[simp] theorem started_fetched : (Session.started address firstByte).bytesFetched = 1 := rfl
@[simp] theorem started_required : (Session.started address firstByte).bytesRequired = 0 := rfl
@[simp] theorem started_mode : (Session.started address firstByte).addressingMode = .unset := rfl
@[simp] theorem started_target : (Session.started address firstByte).resolvedTargetAddress = 0 := rfl
@[simp] theorem started_valid : (Session.started address firstByte).resolvedTargetValid = false := rfl
@[simp] theorem started_output : (Session.started address firstByte).outputString = [] := rfl

variable (r : Rendering)

@[simp] theorem finish_state : (x.finish r).state = .complete := rfl
@[simp] theorem finish_address : (x.finish r).instructionAddress = x.instructionAddress := by simp [Session.finish]
@[simp] theorem finish_raw : (x.finish r).rawBytes = x.rawBytes := by simp [Session.finish]
@[simp] theorem finish_fetched : (x.finish r).bytesFetched = x.bytesFetched := by simp [Session.finish]
@[simp] theorem finish_required : (x.finish r).bytesRequired = x.bytesRequired := by simp [Session.finish]
@[simp] theorem finish_mode : (x.finish r).addressingMode = x.addressingMode := by simp [Session.finish]

end Sys2Proof.Machine
end

