-- ==== Sys2Proof/Laws/Ops.lean ====
section
/-! SUPPORT. What each shared operation can do, said once. -/

namespace Sys2Proof.Machine

variable {p : Profile} {t : Parameters} {x : Session} {s s' : State}

/-! ## The pass -/

/-- The first half of the pass either keeps a known length, or stores the resolver's answer. -/
theorem resolved_cases {y : Session} (h : x.resolved p t = some y) :
    (x.bytesRequired ≠ 0 ∧ y = x) ∨
    ∃ mode n, x.bytesRequired = 0 ∧ resolve p t x.rawBytes x.bytesFetched = some (mode, n) ∧
      y = { x with addressingMode := mode, bytesRequired := n } := by
  unfold Session.resolved at h
  split at h
  · obtain ⟨⟨mode, n⟩, h1, h2⟩ := Option.map_eq_some_iff.mp h
    exact .inr ⟨mode, n, ‹_›, h1, h2.symm⟩
  · exact .inl ⟨‹_›, (Option.some.inj h).symm⟩

/-- The pass declines and changes nothing, or learns the length and waits, or formats and completes (R113). -/
theorem pass_cases (p : Profile) (t : Parameters) (x : Session) :
    (x.resolved p t = none ∧ x.pass p t = x) ∨
    (∃ y, x.resolved p t = some y ∧ y.bytesFetched ≠ y.bytesRequired ∧ x.pass p t = y) ∨
    (∃ y, x.resolved p t = some y ∧ y.bytesFetched = y.bytesRequired ∧ x.pass p t = y.finish (y.rendering p t)) := by
  unfold Session.pass
  cases hr : x.resolved p t with
  | none => exact .inl ⟨rfl, rfl⟩
  | some y =>
    by_cases h : y.bytesFetched = y.bytesRequired
    · exact .inr (.inr ⟨y, rfl, h, by simp [h]⟩)
    · exact .inr (.inl ⟨y, rfl, h, by simp [h]⟩)

/-- `continue` changes nothing outside `Fetching`; in it, a ninth byte overflows and any other is appended (R111). -/
theorem feed_cases (p : Profile) (t : Parameters) (b : Byte) (x : Session) :
    (x.state ≠ .fetching ∧ x.feed p t b = x) ∨
    (x.state = .fetching ∧ x.bytesFetched = maxBytes ∧ x.feed p t b = x.completeWith overflowText) ∨
    (x.state = .fetching ∧ x.bytesFetched ≠ maxBytes ∧ x.feed p t b = (x.append b).pass p t) := by
  unfold Session.feed
  split
  · exact .inl ⟨‹_›, rfl⟩
  · split
    · exact .inr (.inl ⟨not_not.mp ‹_›, ‹_›, rfl⟩)
    · exact .inr (.inr ⟨not_not.mp ‹_›, ‹_›, rfl⟩)

/-! ## Commands -/

/-- Everything a command can answer (R110 to R112, R114, R312). -/
theorem runCommand_cases (c : Command) (s : State) :
    (∃ a b, c = .begin a b ∧ s.session.state = .fetching ∧ runCommand c s = .refused .beginWhileFetching) ∨
    (∃ a b, c = .begin a b ∧ s.session.state ≠ .fetching ∧ runCommand c s = .next { s with
      session := (Session.started a b).pass s.profile (parametersOf s.parameters), reply := .nothing }) ∨
    (∃ b, c = .feed b ∧ runCommand c s = .next { s with
      session := s.session.feed s.profile (parametersOf s.parameters) b
      reply := .transition (leftFetching s.session (s.session.feed s.profile (parametersOf s.parameters) b)) }) ∨
    (c = .complete ∧ runCommand c s = .next { s with reply := .text s.session.read }) := by
  cases c with
  | begin a b =>
    by_cases h : s.session.state = .fetching
    · exact .inl ⟨a, b, rfl, h, by simp [runCommand, h]⟩
    · exact .inr (.inl ⟨a, b, rfl, h, by simp [runCommand, h]⟩)
  | feed b => exact .inr (.inr (.inl ⟨b, rfl, rfl⟩))
  | complete => exact .inr (.inr (.inr ⟨rfl, rfl⟩))

@[simp] theorem runCommands_nil (s : State) : runCommands [] s = .next s := rfl

theorem runCommands_cons (c : Command) (cs : List Command) (s : State) :
    runCommands (c :: cs) s = match runCommand c s with
      | .next s' => runCommands cs s'
      | .fault e => .fault e
      | .refused r => .refused r := rfl

/-- `continue` always has a successor (R312). -/
theorem runCommand_feed (b : Byte) (s : State) :
    runCommand (.feed b) s = .next { s with
      session := s.session.feed s.profile (parametersOf s.parameters) b
      reply := .transition (leftFetching s.session (s.session.feed s.profile (parametersOf s.parameters) b)) } := rfl

/-- The session after several `continue` commands. -/
def feedAll (p : Profile) (t : Parameters) : List Byte → Session → Session
  | [], x => x
  | b :: bs, x => feedAll p t bs (x.feed p t b)

/-- A run of `continue` commands answers a next state, which differs in the session and the reply only. -/
theorem runCommands_feed (bs : List Byte) (s : State) :
    ∃ r, runCommands (bs.map .feed) s =
      .next { s with session := feedAll s.profile (parametersOf s.parameters) bs s.session, reply := r } := by
  induction bs generalizing s with
  | nil => exact ⟨s.reply, rfl⟩
  | cons b bs ih =>
    obtain ⟨r, h⟩ := ih { s with
      session := s.session.feed s.profile (parametersOf s.parameters) b
      reply := .transition (leftFetching s.session (s.session.feed s.profile (parametersOf s.parameters) b)) }
    exact ⟨r, h⟩

/-- Outside `Fetching`, `continue` commands change nothing of the session (R111). -/
theorem feedAll_of_not_fetching (bs : List Byte) (h : x.state ≠ .fetching) : feedAll p t bs x = x := by
  induction bs generalizing x with
  | nil => rfl
  | cons b bs ih =>
    have hx : x.feed p t b = x := by simp [Session.feed, h]
    rw [feedAll, hx, ih h]

/-! ## Rows -/

/-- Everything a row can answer: the refusal of R114, the row's own result, or its bytes fed as they are. -/
theorem runRow_cases (text : Text) (f : Form) (s : State) :
    (s.session.state = .fetching ∧ runRow text f s = .refused .beginWhileFetching) ∨
    (s.session.state ≠ .fetching ∧ rowServed f s = true ∧
      runRow text f s = .next { s with session := rowSession text f s.feedAddress, reply := rowReply f }) ∨
    (s.session.state ≠ .fetching ∧ rowServed f s = false ∧ runRow text f s = feedForm f s) := by
  unfold runRow
  split
  · exact .inl ⟨‹_›, rfl⟩
  · split
    · exact .inr (.inl ⟨‹_›, ‹_›, rfl⟩)
    · exact .inr (.inr ⟨‹_›, Bool.eq_false_iff.mpr ‹_›, rfl⟩)

/-- A postbyte row always answers a next state, which differs in the session and the reply only. -/
theorem feedPostbyte_next (f : Form) (s : State) :
    ∃ r, feedPostbyte f s =
      .next { s with session := feedAll s.profile (parametersOf s.parameters) (formBytes f) s.session, reply := r } :=
  runCommands_feed (formBytes f) s

/-- A form has at least one byte. -/
theorem formBytes_ne_nil (f : Form) : formBytes f ≠ [] := by
  unfold formBytes
  cases f.lead <;> simp [leadBytes]

/-- Feeding a form is refused in `Fetching`, and otherwise answers a next state that differs in the session and the
reply only. -/
theorem feedForm_cases (f : Form) (s : State) :
    (s.session.state = .fetching ∧ feedForm f s = .refused .beginWhileFetching) ∨
    (s.session.state ≠ .fetching ∧ ∃ b bs r, formBytes f = b :: bs ∧ feedForm f s = .next { s with
      session := feedAll s.profile (parametersOf s.parameters) bs
        ((Session.started s.feedAddress b).pass s.profile (parametersOf s.parameters))
      reply := r }) := by
  unfold feedForm formCommands
  cases hb : formBytes f with
  | nil => exact absurd hb (formBytes_ne_nil f)
  | cons b bs =>
    by_cases h : s.session.state = .fetching
    · exact .inl ⟨h, by simp [runCommands, runCommand, h]⟩
    · obtain ⟨r, hr⟩ := runCommands_feed bs { s with
        session := (Session.started s.feedAddress b).pass s.profile (parametersOf s.parameters), reply := .nothing }
      exact .inr ⟨h, b, bs, r, rfl, by simpa [runCommands, runCommand, h] using hr⟩

/-! ## The raw buffer -/

/-- A buffer whose entries from `n` on are zero holds the bytes before them and no others (R23). -/
theorem rawOf_take (raw : RawBytes) (n : Nat) (h : ∀ k, n ≤ k → rawAt raw k = 0) : rawOf (raw.toList.take n) = raw := by
  apply Vector.ext
  intro k hk
  have hraw : ∀ k, (raw.toList.take n).getD k 0 = rawAt raw k := by
    intro k
    by_cases hn : k < n
    · simp [rawAt, List.getD_eq_getElem?_getD, hn]
    · rw [h k (by omega)]
      simp [List.getD_eq_getElem?_getD, hn]
  have hget : raw[k] = rawAt raw k := by simp [rawAt, hk]
  rw [hget, ← hraw k]
  match k, hk with
  | 0, _ | 1, _ | 2, _ | 3, _ | 4, _ | 5, _ | 6, _ | 7, _ => rfl

/-! ## Fetch -/

/-- What fetching takes from the inbox: it changes the inbox and the feed address, and nothing else. -/
theorem fetchFrom_frame (s : State) (rs : List Request) (i : Instr) (s' : State) (h : fetchFrom s rs = some (i, s')) :
    s'.profile = s.profile ∧ s'.parameters = s.parameters ∧ s'.session = s.session ∧ s'.reply = s.reply := by
  induction rs with
  | nil => cases h
  | cons r rs ih =>
    match r, h with
    | .command c, h => cases h; exact ⟨rfl, rfl, rfl, rfl⟩
    | .capture _ [], h => exact ih h
    | .capture a (b :: bs), h => cases h; exact ⟨rfl, rfl, rfl, rfl⟩

/-- Fetching leaves the block as it is. -/
theorem fetch_frame {i : Instr} (h : fetch s = some (i, s')) :
    s'.profile = s.profile ∧ s'.parameters = s.parameters ∧ s'.session = s.session ∧ s'.reply = s.reply :=
  fetchFrom_frame s s.inbox i s' h

end Sys2Proof.Machine
end

