-- ==== Sys2Proof/Laws/Rows.lean ====
section
/-! SUPPORT. What `exec` can do, said once; the meaning of a row constructor runs the string that the family's table
holds at its opcode. -/

namespace Sys2Proof.Machine

/-- A well-formed row is the instruction of its form, and the form fits its row. -/
theorem wf_row {i : Instr} {f : Form} (hw : i.wf = true) (hf : instrForm i = some f) :
    instrOf f = i ∧ formFits f = true := by
  simp only [Instr.wf, hf, Bool.and_eq_true, decide_eq_true_eq] at hw
  exact ⟨hw.2, hw.1⟩

@[simp] theorem exec_cmdBegin (a : Address) (b : Byte) (s : State) :
    exec (.cmdBegin a b) s = runCommand (.begin a b) s := rfl

@[simp] theorem exec_cmdContinue (b : Byte) (s : State) : exec (.cmdContinue b) s = runCommand (.feed b) s := rfl

@[simp] theorem exec_cmdComplete (s : State) : exec .cmdComplete s = runCommand .complete s := rfl

/-- What `exec` can do, whatever the instruction: with the form of a row it runs that row or feeds it as a postbyte row,
or it is a command. -/
theorem exec_cases (i : Instr) (s : State) :
    (∃ t f, instrForm i = some f ∧ exec i s = runRow t f s) ∨
    (∃ f, instrForm i = some f ∧ exec i s = feedPostbyte f s) ∨
    (∃ c : Command, i = c.instr ∧ exec i s = runCommand c s) := by
  cases i with
  | cmdBegin a b => exact .inr (.inr ⟨.begin a b, rfl, rfl⟩)
  | cmdContinue b => exact .inr (.inr ⟨.feed b, rfl, rfl⟩)
  | cmdComplete => exact .inr (.inr ⟨.complete, rfl, rfl⟩)
  | _ => first | exact .inl ⟨_, _, rfl, rfl⟩ | exact .inr (.inl ⟨_, rfl, rfl⟩)

/-- The meaning of a constructor is `runRow` on a string. -/
def RowReads (c : Form → Instr) (t : String) : Prop := ∀ f s, exec (c f) s = runRow (ascii t) f s

/-- A grid whose constructors read the strings of a list reads them at every index. -/
theorem reads_getD {grid : RowGrid} {texts : List String} (h : List.Forall₂ RowReads grid texts) (k : Nat) :
    RowReads (grid.getD k .unknown) (texts.getD k "?") := by
  induction h generalizing k with
  | nil => exact fun _ _ => rfl
  | cons h _ ih =>
    cases k with
    | zero => exact h
    | succ k => exact ih k

/-- A table made of 256 strings, read at an opcode. -/
theorem tableAt_tableOf (texts : List String) (h : texts.length = 256) (op : Byte) :
    tableAt (tableOf texts h) op = ascii (texts.getD op.toNat "?") := by
  have hlt : op.toNat < texts.length := by have := op.isLt; omega
  simp [tableAt, tableOf, Vector.get, List.getD_eq_getElem?_getD, hlt]
  rfl

/-- A row of a grid runs the string of the table at its opcode. -/
theorem gridAt_reads {grid : RowGrid} {texts : List String} (h : List.Forall₂ RowReads grid texts)
    (hs : texts.length = 256) (op : Byte) (f : Form) (s : State) :
    exec (gridAt grid op f) s = runRow (tableAt (tableOf texts hs) op) f s := by
  rw [tableAt_tableOf]
  exact reads_getD h op.toNat f s

set_option maxRecDepth 4000

theorem rowsT6502_read : List.Forall₂ RowReads rowsT6502 referenceT6502List := by
  unfold rowsT6502 referenceT6502List
  repeat' first | exact .nil | refine .cons (fun _ _ => rfl) ?_

theorem rowsT65C02_read : List.Forall₂ RowReads rowsT65C02 referenceT65C02List := by
  unfold rowsT65C02 referenceT65C02List
  repeat' first | exact .nil | refine .cons (fun _ _ => rfl) ?_

theorem rowsT6800_read : List.Forall₂ RowReads rowsT6800 referenceT6800List := by
  unfold rowsT6800 referenceT6800List
  repeat' first | exact .nil | refine .cons (fun _ _ => rfl) ?_

theorem rowsT6809_read : List.Forall₂ RowReads rowsT6809 referenceT6809List := by
  unfold rowsT6809 referenceT6809List
  repeat' first | exact .nil | refine .cons (fun _ _ => rfl) ?_

theorem rowsTZ80_read : List.Forall₂ RowReads rowsTZ80 referenceTZ80List := by
  unfold rowsTZ80 referenceTZ80List
  repeat' first | exact .nil | refine .cons (fun _ _ => rfl) ?_

/-- A lead that is one opcode byte of one of the five string tables. -/
def isTableLead : Lead → Bool
  | .mos6502 _ _ | .m6800 _ | .m6809 _ | .z80 _ => true
  | _ => false

/-- The instruction of a form in one of the five string tables runs its table's string. -/
theorem exec_tableRow (lead : Lead) (h : isTableLead lead = true) (operand : Operand) (s : State) :
    exec (instrOf ⟨lead, operand⟩) s = runRow (rowText lead) ⟨lead, operand⟩ s := by
  match lead, h with
  | .mos6502 .nmos op, _ => exact gridAt_reads rowsT6502_read (by decide +kernel) op _ s
  | .mos6502 .cmos op, _ => exact gridAt_reads rowsT65C02_read (by decide +kernel) op _ s
  | .m6800 op, _ => exact gridAt_reads rowsT6800_read (by decide +kernel) op _ s
  | .m6809 op, _ => exact gridAt_reads rowsT6809_read (by decide +kernel) op _ s
  | .z80 op, _ => exact gridAt_reads rowsTZ80_read (by decide +kernel) op _ s

/-- Every row of the postbyte grid feeds its form. -/
theorem rowsPostbyte_feed : ∀ c ∈ rowsPostbyte, ∀ f s, exec (c f) s = feedPostbyte f s := by
  unfold rowsPostbyte
  simp only [List.forall_mem_append, List.forall_mem_cons]
  repeat' first | exact fun _ h => absurd h (List.not_mem_nil) | exact fun _ _ => rfl | constructor

/-- The instruction of a postbyte form feeds it. -/
theorem exec_postbyteRow (pb : Byte) (operand : Operand) (s : State) :
    exec (instrOf ⟨.postbyte pb, operand⟩) s = feedPostbyte ⟨.postbyte pb, operand⟩ s := by
  have hlen : rowsPostbyte.length = 256 := by decide +kernel
  have hlt : pb.toNat < rowsPostbyte.length := by have := pb.isLt; omega
  show exec (rowsPostbyte.getD pb.toNat .unknown _) s = _
  rw [List.getD_eq_getElem _ _ hlt]
  exact rowsPostbyte_feed _ (List.getElem_mem hlt) _ _

end Sys2Proof.Machine
end

