-- ==== Sys2Proof/Tests/Slice0.lean ====
section
/-! SUPPORT. The model's own tests: ill-formed terms, one decoded word of every constructor, the spec's vectors, and for
every statement with hypotheses a state and operands that meet them. -/

namespace Sys2Proof.Tests

set_option Elab.async false

open Sys2Proof.Machine

/-! ## Ill-formed terms are refused -/

theorem test_wf_missing_operand : (Instr.ldaImm ⟨.mos6502 .nmos 0xA9, .none⟩).wf = false := by decide +kernel

theorem test_wf_other_row : (Instr.ldaZp ⟨.mos6502 .nmos 0xA9, .byte 0⟩).wf = false := by decide +kernel

theorem test_wf_page_byte_is_no_opcode : (Instr.unknown ⟨.m6809 0x10, .none⟩).wf = false := by decide +kernel

theorem test_wf_lead_in_is_no_opcode :
    (Instr.unknown ⟨.z80 0xCB, .none⟩).wf = false ∧ (Instr.unknown ⟨.xy .ix 0xCB, .none⟩).wf = false := by
  decide +kernel

theorem test_wf_postbyte_asks_for_bytes : (Instr.lda ⟨.m6809 0xA6, .index 0x88⟩).wf = false := by decide +kernel

theorem test_wf_accepts :
    (Instr.ldaImm ⟨.mos6502 .nmos 0xA9, .byte 0⟩).wf = true ∧ (Instr.lda ⟨.m6809 0xA6, .index8 0x88 0⟩).wf = true ∧
    (Instr.cmdBegin 0 0).wf = true := by
  decide +kernel

/-! ## Decoding: one word of every constructor, written out from the `match` of its row of spec/opcode_table.json,
its operand bytes zero (an index postbyte `0x84`) -/

/-- The word decodes, whole, to the constructor on the form of just these bytes. -/
noncomputable def reads (p : Profile) (row : List Byte × (Form → Instr)) : Bool :=
  match decode p .reference row.1 with
  | .ok (i, []) =>
    match instrForm i with
    | some f => decide (i = row.2 f) && decide (formBytes f = row.1) && i.wf
    | none => false
  | _ => false

theorem test_words_T6502_1 : ([
   ([0x00], .brk), ([0x01, 0x00], .oraIndX), ([0x05, 0x00], .oraZp), ([0x06, 0x00], .aslZp), ([0x08], .php),
   ([0x09, 0x00], .oraImm), ([0x0A], .aslAcc), ([0x0D, 0x00, 0x00], .oraAbs), ([0x0E, 0x00, 0x00], .aslAbs),
   ([0x10, 0x00], .bplRel), ([0x11, 0x00], .oraIndY), ([0x15, 0x00], .oraZpX), ([0x16, 0x00], .aslZpX),
   ([0x18], .clc), ([0x19, 0x00, 0x00], .oraAbsY), ([0x1D, 0x00, 0x00], .oraAbsX), ([0x1E, 0x00, 0x00], .aslAbsX),
   ([0x20, 0x00, 0x00], .jsrAbs), ([0x21, 0x00], .andIndX), ([0x24, 0x00], .bitZp), ([0x25, 0x00], .andZp),
   ([0x26, 0x00], .rolZp), ([0x28], .plp), ([0x29, 0x00], .andImm), ([0x2A], .rolAcc), ([0x2C, 0x00, 0x00], .bitAbs),
   ([0x2D, 0x00, 0x00], .andAbs), ([0x2E, 0x00, 0x00], .rolAbs), ([0x30, 0x00], .bmiRel), ([0x31, 0x00], .andIndY),
   ([0x35, 0x00], .andZpX), ([0x36, 0x00], .rolZpX), ([0x38], .sec), ([0x39, 0x00, 0x00], .andAbsY),
   ([0x3D, 0x00, 0x00], .andAbsX), ([0x3E, 0x00, 0x00], .rolAbsX), ([0x40], .rti), ([0x41, 0x00], .eorIndX),
   ([0x45, 0x00], .eorZp), ([0x46, 0x00], .lsrZp), ([0x48], .pha), ([0x49, 0x00], .eorImm), ([0x4A], .lsrAcc),
   ([0x4C, 0x00, 0x00], .jmpAbs), ([0x4D, 0x00, 0x00], .eorAbs), ([0x4E, 0x00, 0x00], .lsrAbs),
   ([0x50, 0x00], .bvcRel), ([0x51, 0x00], .eorIndY), ([0x55, 0x00], .eorZpX), ([0x56, 0x00], .lsrZpX),
   ([0x58], .cli), ([0x59, 0x00, 0x00], .eorAbsY), ([0x5D, 0x00, 0x00], .eorAbsX), ([0x5E, 0x00, 0x00], .lsrAbsX),
   ([0x60], .rts), ([0x61, 0x00], .adcIndX), ([0x65, 0x00], .adcZp), ([0x66, 0x00], .rorZp), ([0x68], .pla),
   ([0x69, 0x00], .adcImm), ([0x6A], .rorAcc), ([0x6C, 0x00, 0x00], .jmpInd), ([0x6D, 0x00, 0x00], .adcAbs),
   ([0x6E, 0x00, 0x00], .rorAbs), ([0x70, 0x00], .bvsRel), ([0x71, 0x00], .adcIndY), ([0x75, 0x00], .adcZpX),
   ([0x76, 0x00], .rorZpX), ([0x78], .sei), ([0x79, 0x00, 0x00], .adcAbsY), ([0x7D, 0x00, 0x00], .adcAbsX),
   ([0x7E, 0x00, 0x00], .rorAbsX), ([0x81, 0x00], .staIndX), ([0x84, 0x00], .styZp), ([0x85, 0x00], .staZp),
   ([0x86, 0x00], .stxZp), ([0x88], .dey), ([0x8A], .txa), ([0x8C, 0x00, 0x00], .styAbs),
   ([0x8D, 0x00, 0x00], .staAbs), ([0x8E, 0x00, 0x00], .stxAbs), ([0x90, 0x00], .bccRel), ([0x91, 0x00], .staIndY),
   ([0x94, 0x00], .styZpX), ([0x95, 0x00], .staZpX), ([0x96, 0x00], .stxZpY), ([0x98], .tya),
   ([0x99, 0x00, 0x00], .staAbsY), ([0x9A], .txs), ([0x9D, 0x00, 0x00], .staAbsX), ([0xA0, 0x00], .ldyImm),
   ([0xA1, 0x00], .ldaIndX), ([0xA2, 0x00], .ldxImm), ([0xA4, 0x00], .ldyZp), ([0xA5, 0x00], .ldaZp),
   ([0xA6, 0x00], .ldxZp), ([0xA8], .tay), ([0xA9, 0x00], .ldaImm), ([0xAA], .tax), ([0xAC, 0x00, 0x00], .ldyAbs),
   ([0xAD, 0x00, 0x00], .ldaAbs), ([0xAE, 0x00, 0x00], .ldxAbs), ([0xB0, 0x00], .bcsRel), ([0xB1, 0x00], .ldaIndY),
   ([0xB4, 0x00], .ldyZpX), ([0xB5, 0x00], .ldaZpX), ([0xB6, 0x00], .ldxZpY), ([0xB8], .clv),
   ([0xB9, 0x00, 0x00], .ldaAbsY), ([0xBA], .tsx), ([0xBC, 0x00, 0x00], .ldyAbsX), ([0xBD, 0x00, 0x00], .ldaAbsX),
   ([0xBE, 0x00, 0x00], .ldxAbsY), ([0xC0, 0x00], .cpyImm), ([0xC1, 0x00], .cmpIndX), ([0xC4, 0x00], .cpyZp),
   ([0xC5, 0x00], .cmpZp), ([0xC6, 0x00], .decZp), ([0xC8], .iny), ([0xC9, 0x00], .cmpImm), ([0xCA], .dex),
   ([0xCC, 0x00, 0x00], .cpyAbs), ([0xCD, 0x00, 0x00], .cmpAbs), ([0xCE, 0x00, 0x00], .decAbs),
   ([0xD0, 0x00], .bneRel), ([0xD1, 0x00], .cmpIndY), ([0xD5, 0x00], .cmpZpX), ([0xD6, 0x00], .decZpX),
   ([0xD8], .cld), ([0xD9, 0x00, 0x00], .cmpAbsY), ([0xDD, 0x00, 0x00], .cmpAbsX), ([0xDE, 0x00, 0x00], .decAbsX),
   ([0xE0, 0x00], .cpxImm), ([0xE1, 0x00], .sbcIndX), ([0xE4, 0x00], .cpxZp), ([0xE5, 0x00], .sbcZp),
   ([0xE6, 0x00], .incZp), ([0xE8], .inx), ([0xE9, 0x00], .sbcImm), ([0xEA], .nop), ([0xEC, 0x00, 0x00], .cpxAbs),
   ([0xED, 0x00, 0x00], .sbcAbs), ([0xEE, 0x00, 0x00], .incAbs), ([0xF0, 0x00], .beqRel), ([0xF1, 0x00], .sbcIndY),
   ([0xF5, 0x00], .sbcZpX), ([0xF6, 0x00], .incZpX), ([0xF8], .sed), ([0xF9, 0x00, 0x00], .sbcAbsY),
   ([0xFD, 0x00, 0x00], .sbcAbsX)] : List (List Byte × (Form → Instr))).all (reads .p6502) = true := by
  decide +kernel

theorem test_words_T6502_2 : ([
   ([0xFE, 0x00, 0x00], .incAbsX)] : List (List Byte × (Form → Instr))).all (reads .p6502) = true := by
  decide +kernel

theorem test_words_T65C02 : ([
   ([0x04, 0x00], .tsbZp), ([0x0C, 0x00, 0x00], .tsbAbs), ([0x12, 0x00], .oraZpInd), ([0x14, 0x00], .trbZp),
   ([0x1A], .inc_a), ([0x1C, 0x00, 0x00], .trbAbs), ([0x32, 0x00], .andZpInd), ([0x34, 0x00], .bitZpX),
   ([0x3A], .dec_a), ([0x3C, 0x00, 0x00], .bitAbsX), ([0x52, 0x00], .eorZpInd), ([0x5A], .phy),
   ([0x64, 0x00], .stzZp), ([0x72, 0x00], .adcZpInd), ([0x74, 0x00], .stzZpX), ([0x7A], .ply),
   ([0x7C, 0x00, 0x00], .jmpAbsIndX), ([0x80, 0x00], .braRel), ([0x89, 0x00], .bitImm), ([0x92, 0x00], .staZpInd),
   ([0x9C, 0x00, 0x00], .stzAbs), ([0x9E, 0x00, 0x00], .stzAbsX), ([0xB2, 0x00], .ldaZpInd),
   ([0xD2, 0x00], .cmpZpInd), ([0xDA], .phx), ([0xF2, 0x00], .sbcZpInd), ([0xFA], .plx)] : List (List Byte × (Form → Instr))).all (reads .p65C02) = true := by
  decide +kernel

theorem test_words_T6800 : ([
   ([0x06], .tap), ([0x07], .tpa), ([0x0B], .sev), ([0x10], .sba), ([0x11], .cba), ([0x16], .tab), ([0x17], .tba),
   ([0x19], .daa), ([0x1B], .aba), ([0x20, 0x00], .bra), ([0x22, 0x00], .bhi), ([0x23, 0x00], .bls),
   ([0x24, 0x00], .bcc), ([0x25, 0x00], .bcs), ([0x26, 0x00], .bne), ([0x27, 0x00], .beq), ([0x28, 0x00], .bvc),
   ([0x29, 0x00], .bvs), ([0x2A, 0x00], .bpl), ([0x2B, 0x00], .bmi), ([0x2C, 0x00], .bge), ([0x2D, 0x00], .blt),
   ([0x2E, 0x00], .bgt), ([0x2F, 0x00], .ble), ([0x31], .ins), ([0x32], .pula), ([0x33], .pulb), ([0x34], .des),
   ([0x36], .psha), ([0x37], .pshb), ([0x3E], .wai), ([0x3F], .swi), ([0x40], .nega), ([0x43], .coma),
   ([0x44], .lsra), ([0x46], .rora), ([0x47], .asra), ([0x48], .asla), ([0x49], .rola), ([0x4A], .deca),
   ([0x4C], .inca), ([0x4D], .tsta), ([0x4F], .clra), ([0x50], .negb), ([0x53], .comb), ([0x54], .lsrb),
   ([0x56], .rorb), ([0x57], .asrb), ([0x58], .aslb), ([0x59], .rolb), ([0x5A], .decb), ([0x5C], .incb),
   ([0x5D], .tstb), ([0x5F], .clrb), ([0x60, 0x00], .neg), ([0x63, 0x00], .com), ([0x64, 0x00], .lsr),
   ([0x66, 0x00], .ror), ([0x67, 0x00], .asr), ([0x68, 0x00], .asl), ([0x69, 0x00], .rol), ([0x6A, 0x00], .dec),
   ([0x6C, 0x00], .inc), ([0x6D, 0x00], .tst), ([0x6E, 0x00], .jmp), ([0x6F, 0x00], .clr), ([0x80, 0x00], .suba),
   ([0x81, 0x00], .cmpa), ([0x82, 0x00], .sbca), ([0x84, 0x00], .anda), ([0x85, 0x00], .bita), ([0x86, 0x00], .ldaa),
   ([0x88, 0x00], .eora), ([0x89, 0x00], .adca), ([0x8A, 0x00], .oraa), ([0x8B, 0x00], .adda), ([0x8C, 0x00], .cpx),
   ([0x8D, 0x00], .bsr), ([0x8E, 0x00, 0x00], .lds), ([0x97, 0x00], .staa), ([0x9F, 0x00], .sts),
   ([0xAD, 0x00], .jsr), ([0xC0, 0x00], .subb), ([0xC1, 0x00], .cmpb), ([0xC2, 0x00], .sbcb), ([0xC4, 0x00], .andb),
   ([0xC5, 0x00], .bitb), ([0xC6, 0x00], .ldab), ([0xC8, 0x00], .eorb), ([0xC9, 0x00], .adcb), ([0xCA, 0x00], .orab),
   ([0xCB, 0x00], .addb), ([0xCE, 0x00, 0x00], .ldx), ([0xD7, 0x00], .stab), ([0xDF, 0x00], .stx)] : List (List Byte × (Form → Instr))).all (reads .p6800) = true := by
  decide +kernel

theorem test_words_T6809 : ([
   ([0x13], .sync), ([0x16, 0x00, 0x00], .lbra), ([0x17, 0x00, 0x00], .lbsr), ([0x1A, 0x00], .orcc),
   ([0x1C, 0x00], .andcc), ([0x1D], .sex), ([0x1E, 0x00], .exg), ([0x1F, 0x00], .tfr), ([0x21, 0x00], .brn),
   ([0x30, 0x84], .leax), ([0x31, 0x84], .leay), ([0x32, 0x84], .leas), ([0x33, 0x84], .leau), ([0x34, 0x00], .pshs),
   ([0x35, 0x00], .puls), ([0x36, 0x00], .pshu), ([0x37, 0x00], .pulu), ([0x3A], .abx), ([0x3C, 0x00], .cwai),
   ([0x3D], .mul), ([0x83, 0x00, 0x00], .subd), ([0x86, 0x00], .lda), ([0x8A, 0x00], .ora),
   ([0x8C, 0x00, 0x00], .cmpx), ([0x97, 0x00], .sta), ([0xC3, 0x00, 0x00], .addd), ([0xC6, 0x00], .ldb),
   ([0xCA, 0x00], .orb), ([0xCC, 0x00, 0x00], .ldd), ([0xCE, 0x00, 0x00], .ldu), ([0xD7, 0x00], .stb),
   ([0xDD, 0x00], .std), ([0xDF, 0x00], .stu)] : List (List Byte × (Form → Instr))).all (reads .p6809) = true := by
  decide +kernel

theorem test_words_T6809X : ([
   ([0x10, 0x21, 0x00, 0x00], .lbrn), ([0x10, 0x22, 0x00, 0x00], .lbhi), ([0x10, 0x23, 0x00, 0x00], .lbls),
   ([0x10, 0x24, 0x00, 0x00], .lbcc), ([0x10, 0x25, 0x00, 0x00], .lbcs), ([0x10, 0x26, 0x00, 0x00], .lbne),
   ([0x10, 0x27, 0x00, 0x00], .lbeq), ([0x10, 0x28, 0x00, 0x00], .lbvc), ([0x10, 0x29, 0x00, 0x00], .lbvs),
   ([0x10, 0x2A, 0x00, 0x00], .lbpl), ([0x10, 0x2B, 0x00, 0x00], .lbmi), ([0x10, 0x2C, 0x00, 0x00], .lbge),
   ([0x10, 0x2D, 0x00, 0x00], .lblt), ([0x10, 0x2E, 0x00, 0x00], .lbgt), ([0x10, 0x2F, 0x00, 0x00], .lble),
   ([0x10, 0x3F], .swi2), ([0x10, 0x83, 0x00, 0x00], .cmpd), ([0x10, 0x8C, 0x00, 0x00], .cmpy),
   ([0x10, 0x8E, 0x00, 0x00], .ldy), ([0x10, 0x9F, 0x00], .sty), ([0x11, 0x3F], .swi3),
   ([0x11, 0x83, 0x00, 0x00], .cmpu), ([0x11, 0x8C, 0x00, 0x00], .cmps)] : List (List Byte × (Form → Instr))).all (reads .p6809) = true := by
  decide +kernel

theorem test_words_TZ80_1 : ([
   ([0xDD, 0xCB, 0x00, 0x06], .rlc_mXYd), ([0xDD, 0xCB, 0x00, 0x0E], .rrc_mXYd),
   ([0xDD, 0xCB, 0x00, 0x16], .rl_mXYd), ([0xDD, 0xCB, 0x00, 0x1E], .rr_mXYd), ([0xDD, 0xCB, 0x00, 0x26], .sla_mXYd),
   ([0xDD, 0xCB, 0x00, 0x2E], .sra_mXYd), ([0xDD, 0xCB, 0x00, 0x36], .rotUnknown_mXYd),
   ([0xDD, 0xCB, 0x00, 0x3E], .srl_mXYd), ([0xDD, 0xCB, 0x00, 0x46], .bit_0_mXYd),
   ([0xDD, 0xCB, 0x00, 0x4E], .bit_1_mXYd), ([0xDD, 0xCB, 0x00, 0x56], .bit_2_mXYd),
   ([0xDD, 0xCB, 0x00, 0x5E], .bit_3_mXYd), ([0xDD, 0xCB, 0x00, 0x66], .bit_4_mXYd),
   ([0xDD, 0xCB, 0x00, 0x6E], .bit_5_mXYd), ([0xDD, 0xCB, 0x00, 0x76], .bit_6_mXYd),
   ([0xDD, 0xCB, 0x00, 0x7E], .bit_7_mXYd), ([0xDD, 0xCB, 0x00, 0x86], .res_0_mXYd),
   ([0xDD, 0xCB, 0x00, 0x8E], .res_1_mXYd), ([0xDD, 0xCB, 0x00, 0x96], .res_2_mXYd),
   ([0xDD, 0xCB, 0x00, 0x9E], .res_3_mXYd), ([0xDD, 0xCB, 0x00, 0xA6], .res_4_mXYd),
   ([0xDD, 0xCB, 0x00, 0xAE], .res_5_mXYd), ([0xDD, 0xCB, 0x00, 0xB6], .res_6_mXYd),
   ([0xDD, 0xCB, 0x00, 0xBE], .res_7_mXYd), ([0xDD, 0xCB, 0x00, 0xC6], .set_0_mXYd),
   ([0xDD, 0xCB, 0x00, 0xCE], .set_1_mXYd), ([0xDD, 0xCB, 0x00, 0xD6], .set_2_mXYd),
   ([0xDD, 0xCB, 0x00, 0xDE], .set_3_mXYd), ([0xDD, 0xCB, 0x00, 0xE6], .set_4_mXYd),
   ([0xDD, 0xCB, 0x00, 0xEE], .set_5_mXYd), ([0xDD, 0xCB, 0x00, 0xF6], .set_6_mXYd),
   ([0xDD, 0xCB, 0x00, 0xFE], .set_7_mXYd), ([0xDD, 0xCB, 0x00, 0x00], .rlc_r8), ([0xDD, 0xCB, 0x00, 0x08], .rrc_r8),
   ([0xDD, 0xCB, 0x00, 0x10], .rl_r8), ([0xDD, 0xCB, 0x00, 0x18], .rr_r8), ([0xDD, 0xCB, 0x00, 0x20], .sla_r8),
   ([0xDD, 0xCB, 0x00, 0x28], .sra_r8), ([0xDD, 0xCB, 0x00, 0x30], .rotUnknown_r8),
   ([0xDD, 0xCB, 0x00, 0x38], .srl_r8), ([0xDD, 0xCB, 0x00, 0x40], .bit_0_r8), ([0xDD, 0xCB, 0x00, 0x48], .bit_1_r8),
   ([0xDD, 0xCB, 0x00, 0x50], .bit_2_r8), ([0xDD, 0xCB, 0x00, 0x58], .bit_3_r8),
   ([0xDD, 0xCB, 0x00, 0x60], .bit_4_r8), ([0xDD, 0xCB, 0x00, 0x68], .bit_5_r8),
   ([0xDD, 0xCB, 0x00, 0x70], .bit_6_r8), ([0xDD, 0xCB, 0x00, 0x78], .bit_7_r8),
   ([0xDD, 0xCB, 0x00, 0x80], .res_0_r8), ([0xDD, 0xCB, 0x00, 0x88], .res_1_r8),
   ([0xDD, 0xCB, 0x00, 0x90], .res_2_r8), ([0xDD, 0xCB, 0x00, 0x98], .res_3_r8),
   ([0xDD, 0xCB, 0x00, 0xA0], .res_4_r8), ([0xDD, 0xCB, 0x00, 0xA8], .res_5_r8),
   ([0xDD, 0xCB, 0x00, 0xB0], .res_6_r8), ([0xDD, 0xCB, 0x00, 0xB8], .res_7_r8),
   ([0xDD, 0xCB, 0x00, 0xC0], .set_0_r8), ([0xDD, 0xCB, 0x00, 0xC8], .set_1_r8),
   ([0xDD, 0xCB, 0x00, 0xD0], .set_2_r8), ([0xDD, 0xCB, 0x00, 0xD8], .set_3_r8),
   ([0xDD, 0xCB, 0x00, 0xE0], .set_4_r8), ([0xDD, 0xCB, 0x00, 0xE8], .set_5_r8),
   ([0xDD, 0xCB, 0x00, 0xF0], .set_6_r8), ([0xDD, 0xCB, 0x00, 0xF8], .set_7_r8), ([0xDD, 0x09], .add_xy_rrx),
   ([0xDD, 0x01, 0x00, 0x00], .ld_bc_word), ([0xDD, 0x02], .ld_mBC_a), ([0xDD, 0x03], .inc_bc),
   ([0xDD, 0x04], .inc_b), ([0xDD, 0x05], .dec_b), ([0xDD, 0x06, 0x00], .ld_b_byte), ([0xDD, 0x07], .rlca),
   ([0xDD, 0x08], .ex_af_afAlt), ([0xDD, 0x0A], .ld_a_mBC), ([0xDD, 0x0B], .dec_bc), ([0xDD, 0x0C], .inc_c),
   ([0xDD, 0x0D], .dec_c), ([0xDD, 0x0E, 0x00], .ld_c_byte), ([0xDD, 0x0F], .rrca), ([0xDD, 0x10, 0x00], .djnz_rel),
   ([0xDD, 0x11, 0x00, 0x00], .ld_de_word), ([0xDD, 0x12], .ld_mDE_a), ([0xDD, 0x13], .inc_de),
   ([0xDD, 0x14], .inc_d), ([0xDD, 0x15], .dec_d), ([0xDD, 0x16, 0x00], .ld_d_byte), ([0xDD, 0x17], .rla),
   ([0xDD, 0x18, 0x00], .jr_rel), ([0xDD, 0x1A], .ld_a_mDE), ([0xDD, 0x1B], .dec_de), ([0xDD, 0x1C], .inc_e),
   ([0xDD, 0x1D], .dec_e), ([0xDD, 0x1E, 0x00], .ld_e_byte), ([0xDD, 0x1F], .rra), ([0xDD, 0x20, 0x00], .jr_nz_rel),
   ([0xDD, 0x21, 0x00, 0x00], .ld_xy_word), ([0xDD, 0x22, 0x00, 0x00], .ld_mWord_xy), ([0xDD, 0x23], .inc_xy),
   ([0xDD, 0x24], .inc_h), ([0xDD, 0x25], .dec_h), ([0xDD, 0x26, 0x00], .ld_h_byte), ([0xDD, 0x28, 0x00], .jr_z_rel),
   ([0xDD, 0x2A, 0x00, 0x00], .ld_xy_mWord), ([0xDD, 0x2B], .dec_xy), ([0xDD, 0x2C], .inc_l), ([0xDD, 0x2D], .dec_l),
   ([0xDD, 0x2E, 0x00], .ld_l_byte), ([0xDD, 0x2F], .cpl), ([0xDD, 0x30, 0x00], .jr_nc_rel),
   ([0xDD, 0x31, 0x00, 0x00], .ld_sp_word), ([0xDD, 0x32, 0x00, 0x00], .ld_mWord_a), ([0xDD, 0x33], .inc_sp),
   ([0xDD, 0x34, 0x00], .inc_mXYd), ([0xDD, 0x35, 0x00], .dec_mXYd), ([0xDD, 0x36, 0x00, 0x00], .ld_mXYd_byte),
   ([0xDD, 0x37], .scf), ([0xDD, 0x38, 0x00], .jr_c_rel), ([0xDD, 0x3A, 0x00, 0x00], .ld_a_mWord),
   ([0xDD, 0x3B], .dec_sp), ([0xDD, 0x3E, 0x00], .ld_a_byte), ([0xDD, 0x3F], .ccf), ([0xDD, 0x40], .ld_b_b),
   ([0xDD, 0x41], .ld_b_c), ([0xDD, 0x42], .ld_b_d), ([0xDD, 0x43], .ld_b_e), ([0xDD, 0x44], .ld_b_h),
   ([0xDD, 0x45], .ld_b_l), ([0xDD, 0x46, 0x00], .ld_b_mXYd), ([0xDD, 0x47], .ld_b_a), ([0xDD, 0x48], .ld_c_b),
   ([0xDD, 0x49], .ld_c_c), ([0xDD, 0x4A], .ld_c_d), ([0xDD, 0x4B], .ld_c_e), ([0xDD, 0x4C], .ld_c_h),
   ([0xDD, 0x4D], .ld_c_l), ([0xDD, 0x4E, 0x00], .ld_c_mXYd), ([0xDD, 0x4F], .ld_c_a), ([0xDD, 0x50], .ld_d_b),
   ([0xDD, 0x51], .ld_d_c), ([0xDD, 0x52], .ld_d_d), ([0xDD, 0x53], .ld_d_e), ([0xDD, 0x54], .ld_d_h),
   ([0xDD, 0x55], .ld_d_l), ([0xDD, 0x56, 0x00], .ld_d_mXYd), ([0xDD, 0x57], .ld_d_a), ([0xDD, 0x58], .ld_e_b),
   ([0xDD, 0x59], .ld_e_c), ([0xDD, 0x5A], .ld_e_d), ([0xDD, 0x5B], .ld_e_e), ([0xDD, 0x5C], .ld_e_h)] : List (List Byte × (Form → Instr))).all (reads .pZ80) = true := by
  decide +kernel

theorem test_words_TZ80_2 : ([
   ([0xDD, 0x5D], .ld_e_l), ([0xDD, 0x5E, 0x00], .ld_e_mXYd), ([0xDD, 0x5F], .ld_e_a), ([0xDD, 0x60], .ld_h_b),
   ([0xDD, 0x61], .ld_h_c), ([0xDD, 0x62], .ld_h_d), ([0xDD, 0x63], .ld_h_e), ([0xDD, 0x64], .ld_h_h),
   ([0xDD, 0x65], .ld_h_l), ([0xDD, 0x66, 0x00], .ld_h_mXYd), ([0xDD, 0x67], .ld_h_a), ([0xDD, 0x68], .ld_l_b),
   ([0xDD, 0x69], .ld_l_c), ([0xDD, 0x6A], .ld_l_d), ([0xDD, 0x6B], .ld_l_e), ([0xDD, 0x6C], .ld_l_h),
   ([0xDD, 0x6D], .ld_l_l), ([0xDD, 0x6E, 0x00], .ld_l_mXYd), ([0xDD, 0x6F], .ld_l_a),
   ([0xDD, 0x70, 0x00], .ld_mXYd_b), ([0xDD, 0x71, 0x00], .ld_mXYd_c), ([0xDD, 0x72, 0x00], .ld_mXYd_d),
   ([0xDD, 0x73, 0x00], .ld_mXYd_e), ([0xDD, 0x74, 0x00], .ld_mXYd_h), ([0xDD, 0x75, 0x00], .ld_mXYd_l),
   ([0xDD, 0x76], .halt), ([0xDD, 0x77, 0x00], .ld_mXYd_a), ([0xDD, 0x78], .ld_a_b), ([0xDD, 0x79], .ld_a_c),
   ([0xDD, 0x7A], .ld_a_d), ([0xDD, 0x7B], .ld_a_e), ([0xDD, 0x7C], .ld_a_h), ([0xDD, 0x7D], .ld_a_l),
   ([0xDD, 0x7E, 0x00], .ld_a_mXYd), ([0xDD, 0x7F], .ld_a_a), ([0xDD, 0x80], .add_a_b), ([0xDD, 0x81], .add_a_c),
   ([0xDD, 0x82], .add_a_d), ([0xDD, 0x83], .add_a_e), ([0xDD, 0x84], .add_a_h), ([0xDD, 0x85], .add_a_l),
   ([0xDD, 0x86, 0x00], .add_a_mXYd), ([0xDD, 0x87], .add_a_a), ([0xDD, 0x88], .adc_a_b), ([0xDD, 0x89], .adc_a_c),
   ([0xDD, 0x8A], .adc_a_d), ([0xDD, 0x8B], .adc_a_e), ([0xDD, 0x8C], .adc_a_h), ([0xDD, 0x8D], .adc_a_l),
   ([0xDD, 0x8E, 0x00], .adc_a_mXYd), ([0xDD, 0x8F], .adc_a_a), ([0xDD, 0x90], .sub_b), ([0xDD, 0x91], .sub_c),
   ([0xDD, 0x92], .sub_d), ([0xDD, 0x93], .sub_e), ([0xDD, 0x94], .sub_h), ([0xDD, 0x95], .sub_l),
   ([0xDD, 0x96, 0x00], .sub_mXYd), ([0xDD, 0x97], .sub_a), ([0xDD, 0x98], .sbc_a_b), ([0xDD, 0x99], .sbc_a_c),
   ([0xDD, 0x9A], .sbc_a_d), ([0xDD, 0x9B], .sbc_a_e), ([0xDD, 0x9C], .sbc_a_h), ([0xDD, 0x9D], .sbc_a_l),
   ([0xDD, 0x9E, 0x00], .sbc_a_mXYd), ([0xDD, 0x9F], .sbc_a_a), ([0xDD, 0xA0], .and_b), ([0xDD, 0xA1], .and_c),
   ([0xDD, 0xA2], .and_d), ([0xDD, 0xA3], .and_e), ([0xDD, 0xA4], .and_h), ([0xDD, 0xA5], .and_l),
   ([0xDD, 0xA6, 0x00], .and_mXYd), ([0xDD, 0xA7], .and_a), ([0xDD, 0xA8], .xor_b), ([0xDD, 0xA9], .xor_c),
   ([0xDD, 0xAA], .xor_d), ([0xDD, 0xAB], .xor_e), ([0xDD, 0xAC], .xor_h), ([0xDD, 0xAD], .xor_l),
   ([0xDD, 0xAE, 0x00], .xor_mXYd), ([0xDD, 0xAF], .xor_a), ([0xDD, 0xB0], .or_b), ([0xDD, 0xB1], .or_c),
   ([0xDD, 0xB2], .or_d), ([0xDD, 0xB3], .or_e), ([0xDD, 0xB4], .or_h), ([0xDD, 0xB5], .or_l),
   ([0xDD, 0xB6, 0x00], .or_mXYd), ([0xDD, 0xB7], .or_a), ([0xDD, 0xB8], .cp_b), ([0xDD, 0xB9], .cp_c),
   ([0xDD, 0xBA], .cp_d), ([0xDD, 0xBB], .cp_e), ([0xDD, 0xBC], .cp_h), ([0xDD, 0xBD], .cp_l),
   ([0xDD, 0xBE, 0x00], .cp_mXYd), ([0xDD, 0xBF], .cp_a), ([0xDD, 0xC0], .ret_nz), ([0xDD, 0xC1], .pop_bc),
   ([0xDD, 0xC2, 0x00, 0x00], .jp_nz_word), ([0xDD, 0xC3, 0x00, 0x00], .jp_word),
   ([0xDD, 0xC4, 0x00, 0x00], .call_nz_word), ([0xDD, 0xC5], .push_bc), ([0xDD, 0xC6, 0x00], .add_a_byte),
   ([0xDD, 0xC7], .rst_00h), ([0xDD, 0xC8], .ret_z), ([0xDD, 0xC9], .ret), ([0xDD, 0xCA, 0x00, 0x00], .jp_z_word),
   ([0xDD, 0xCC, 0x00, 0x00], .call_z_word), ([0xDD, 0xCD, 0x00, 0x00], .call_word),
   ([0xDD, 0xCE, 0x00], .adc_a_byte), ([0xDD, 0xCF], .rst_08h), ([0xDD, 0xD0], .ret_nc), ([0xDD, 0xD1], .pop_de),
   ([0xDD, 0xD2, 0x00, 0x00], .jp_nc_word), ([0xDD, 0xD3, 0x00], .out_mByte_a),
   ([0xDD, 0xD4, 0x00, 0x00], .call_nc_word), ([0xDD, 0xD5], .push_de), ([0xDD, 0xD6, 0x00], .sub_byte),
   ([0xDD, 0xD7], .rst_10h), ([0xDD, 0xD8], .ret_c), ([0xDD, 0xD9], .exx), ([0xDD, 0xDA, 0x00, 0x00], .jp_c_word),
   ([0xDD, 0xDB, 0x00], .in_a_mByte), ([0xDD, 0xDC, 0x00, 0x00], .call_c_word), ([0xDD, 0xDE, 0x00], .sbc_a_byte),
   ([0xDD, 0xDF], .rst_18h), ([0xDD, 0xE0], .ret_po), ([0xDD, 0xE1], .pop_xy),
   ([0xDD, 0xE2, 0x00, 0x00], .jp_po_word), ([0xDD, 0xE3], .ex_mSP_xy), ([0xDD, 0xE4, 0x00, 0x00], .call_po_word),
   ([0xDD, 0xE5], .push_xy), ([0xDD, 0xE6, 0x00], .and_byte), ([0xDD, 0xE7], .rst_20h), ([0xDD, 0xE8], .ret_pe),
   ([0xDD, 0xE9], .jp_mXY), ([0xDD, 0xEA, 0x00, 0x00], .jp_pe_word), ([0xDD, 0xEB], .ex_de_xy),
   ([0xDD, 0xEC, 0x00, 0x00], .call_pe_word), ([0xDD, 0xEE, 0x00], .xor_byte), ([0xDD, 0xEF], .rst_28h),
   ([0xDD, 0xF0], .ret_p), ([0xDD, 0xF1], .pop_af), ([0xDD, 0xF2, 0x00, 0x00], .jp_p_word), ([0xDD, 0xF3], .di),
   ([0xDD, 0xF4, 0x00, 0x00], .call_p_word), ([0xDD, 0xF5], .push_af)] : List (List Byte × (Form → Instr))).all (reads .pZ80) = true := by
  decide +kernel

theorem test_words_TZ80_3 : ([
   ([0xDD, 0xF6, 0x00], .or_byte), ([0xDD, 0xF7], .rst_30h), ([0xDD, 0xF8], .ret_m), ([0xDD, 0xF9], .ld_sp_xy),
   ([0xDD, 0xFA, 0x00, 0x00], .jp_m_word), ([0xDD, 0xFB], .ei), ([0xDD, 0xFC, 0x00, 0x00], .call_m_word),
   ([0xDD, 0xFE, 0x00], .cp_byte), ([0xDD, 0xFF], .rst_38h), ([0xED, 0xA0], .ldi), ([0xED, 0xA1], .cpi),
   ([0xED, 0xA2], .ini), ([0xED, 0xA3], .outi), ([0xED, 0xA9], .cpd), ([0xED, 0xAA], .ind), ([0xED, 0xAB], .outd),
   ([0xED, 0xB0], .ldir), ([0xED, 0xB1], .cpir), ([0xED, 0xB2], .inir), ([0xED, 0xB3], .otir), ([0xED, 0xB8], .lddr),
   ([0xED, 0xB9], .cpdr), ([0xED, 0xBA], .indr), ([0xED, 0xBB], .otdr), ([0xED, 0x42], .sbc_hl_rr),
   ([0xED, 0x4A], .adc_hl_rr), ([0xED, 0x43, 0x00, 0x00], .ld_mWord_rr), ([0xED, 0x4B, 0x00, 0x00], .ld_rr_mWord),
   ([0xED, 0x40], .in_r8io_mC), ([0xED, 0x41], .out_mC_r8io), ([0xED, 0x45], .retn), ([0xED, 0x46], .im_0),
   ([0xED, 0x47], .ld_i_a), ([0xED, 0x4D], .reti), ([0xED, 0x4F], .ld_r_a), ([0xED, 0x56], .im_1),
   ([0xED, 0x57], .ld_a_i), ([0xED, 0x5E], .im_2), ([0xED, 0x5F], .ld_a_r), ([0xED, 0x67], .rrd),
   ([0xED, 0x6F], .rld), ([0x09], .add_hl_bc), ([0x19], .add_hl_de), ([0x21, 0x00, 0x00], .ld_hl_word),
   ([0x22, 0x00, 0x00], .ld_mWord_hl), ([0x23], .inc_hl), ([0x29], .add_hl_hl), ([0x2A, 0x00, 0x00], .ld_hl_mWord),
   ([0x2B], .dec_hl), ([0x34], .inc_mHL), ([0x35], .dec_mHL), ([0x36, 0x00], .ld_mHL_byte), ([0x39], .add_hl_sp),
   ([0x46], .ld_b_mHL), ([0x4E], .ld_c_mHL), ([0x56], .ld_d_mHL), ([0x5E], .ld_e_mHL), ([0x66], .ld_h_mHL),
   ([0x6E], .ld_l_mHL), ([0x70], .ld_mHL_b), ([0x71], .ld_mHL_c), ([0x72], .ld_mHL_d), ([0x73], .ld_mHL_e),
   ([0x74], .ld_mHL_h), ([0x75], .ld_mHL_l), ([0x77], .ld_mHL_a), ([0x7E], .ld_a_mHL), ([0x86], .add_a_mHL),
   ([0x8E], .adc_a_mHL), ([0x96], .sub_mHL), ([0x9E], .sbc_a_mHL), ([0xA6], .and_mHL), ([0xAE], .xor_mHL),
   ([0xB6], .or_mHL), ([0xBE], .cp_mHL), ([0xE1], .pop_hl), ([0xE3], .ex_mSP_hl), ([0xE5], .push_hl),
   ([0xE9], .jp_mHL), ([0xEB], .ex_de_hl), ([0xF9], .ld_sp_hl)] : List (List Byte × (Form → Instr))).all (reads .pZ80) = true := by
  decide +kernel

/-- The postbyte word decodes, whole, to the constructor on the form of just these bytes. -/
noncomputable def readsPostbyte (row : List Byte × (Form → Instr)) : Bool :=
  match decodePostbyte row.1 with
  | .ok (i, []) =>
    match instrForm i with
    | some f => decide (i = row.2 f) && decide (formBytes f = row.1) && i.wf
    | none => false
  | _ => false

theorem test_words_Postbyte6809 : ([
   ([0x00], .postIdx5), ([0x9F, 0x00, 0x00], .postExtInd), ([0x80], .postInc1), ([0x81], .postInc2),
   ([0x91], .postInc2Ind), ([0x82], .postDec1), ([0x83], .postDec2), ([0x93], .postDec2Ind), ([0x84], .postZero),
   ([0x94], .postZeroInd), ([0x85], .postAccB), ([0x95], .postAccBInd), ([0x86], .postAccA), ([0x96], .postAccAInd),
   ([0x88, 0x00], .postConst8), ([0x98, 0x00], .postConst8Ind), ([0x89, 0x00, 0x00], .postConst16),
   ([0x99, 0x00, 0x00], .postConst16Ind), ([0x8B], .postAccD), ([0x9B], .postAccDInd), ([0x8C, 0x00], .postPcr8),
   ([0x9C, 0x00], .postPcr8Ind), ([0x8D, 0x00, 0x00], .postPcr16), ([0x9D, 0x00, 0x00], .postPcr16Ind),
   ([0x87], .postInvalid)] : List (List Byte × (Form → Instr))).all readsPostbyte = true := by
  decide +kernel

/-- The unknown opcodes of every table: a word with no instruction. -/
theorem test_words_unknown :
    reads .p6502 ([0x02], .unknown) = true ∧
    reads .p65C02 ([0x07], .unknown) = true ∧ reads .p6800 ([0x87, 0x00], .unknown) = true ∧
    reads .p6809 ([0x87, 0x00], .unknown) = true ∧ reads .p6809E ([0x10, 0x20, 0x00, 0x00], .unknown) = true ∧
    reads .pZ80 ([0xED, 0x4C], .unknown) = true ∧ reads .pZ80 ([0xDD, 0xFD], .unknown) = true := by
  decide +kernel


/-! ## Vectors of spec/95: one step on captured bytes -/

/-- One step on a block created for a profile, with an instruction's bytes captured at an address, completes with this
text, length, mode and target, and takes all the bytes. -/
noncomputable def decodes (p : Profile) (address : Address) (bs : List Byte) (text : String) (length : Nat)
    (mode : AddressingMode) (target : Option TargetAddress) : Bool :=
  match step { State.create p .reference with inbox := [.capture address bs] } with
  | .next s => decide (s.session.state = .complete) && decide (s.session.outputString = ascii text)
      && decide (s.session.bytesRequired = length) && decide (s.session.addressingMode = mode)
      && decide ((if s.session.resolvedTargetValid then some s.session.resolvedTargetAddress else none) = target)
      && decide (s.inbox = [.capture (address + BitVec.ofNat 32 bs.length) []])
  | _ => false

/-- Vector A1. -/
theorem test_vector_A1 :
    decodes .p6502 0x1000 [0xEA] "NOP" 1 .m65Implied none = true := by decide +kernel

/-- Vector A7. -/
theorem test_vector_A7 :
    decodes .p6502 0x1000 [0xB1, 0x44] "LDA ($44),Y" 2 .m65Byte none = true := by decide +kernel

/-- Vector A9. -/
theorem test_vector_A9 :
    decodes .p6502 0x1000 [0x6C, 0xFF, 0x00] "JMP ($00FF)" 3 .m65Word none = true := by decide +kernel

/-- Vector A15. -/
theorem test_vector_A15 :
    decodes .p6502 0x1000 [0x90, 0x80] "BCC -128 <0F82>" 2 .m65Rel (some 0x0F82) = true := by decide +kernel

/-- Vector A16. -/
theorem test_vector_A16 :
    decodes .p6502 0x0000 [0x10, 0x80] "BPL -128 <FF82>" 2 .m65Rel (some 0xFF82) = true := by decide +kernel

/-- Vector A18. -/
theorem test_vector_A18 :
    decodes .p6502 0x12345 [0xD0, 0x10] "BNE 16 <2357>" 2 .m65Rel (some 0x2357) = true := by decide +kernel

/-- Vector A19. -/
theorem test_vector_A19 :
    decodes .p6502 0x1000 [0x02] "?" 1 .m65Implied none = true := by decide +kernel

/-- Vector A22. -/
theorem test_vector_A22 :
    decodes .p65C02 0xFFF0 [0x80, 0x7F] "BRA 127 <0071>" 2 .m65Rel (some 0x0071) = true := by decide +kernel

/-- Vector A24. -/
theorem test_vector_A24 :
    decodes .p65C02 0x1000 [0x7C, 0x00, 0x30] "JMP ($3000,X)" 3 .m65Word none = true := by decide +kernel

/-- Vector B1. -/
theorem test_vector_B1 :
    decodes .p6800 0x0100 [0x01] "NOP" 1 .m68Inherent none = true := by decide +kernel

/-- Vector B5. -/
theorem test_vector_B5 :
    decodes .p6800 0x0100 [0xCE, 0x12, 0x34] "LDX #$1234" 3 .m68Imm16 none = true := by decide +kernel

/-- Vector B7. -/
theorem test_vector_B7 :
    decodes .p6800 0x0100 [0x8C, 0x12] "CPX #$12" 2 .m68Imm8 none = true := by decide +kernel

/-- Vector B8. -/
theorem test_vector_B8 :
    decodes .p6800 0x0100 [0x96, 0x20] "LDAA $20" 2 .m68Direct none = true := by decide +kernel

/-- Vector B9. -/
theorem test_vector_B9 :
    decodes .p6800 0x0100 [0xA6, 0x05] "LDAA $05,X" 2 .m68Indexed none = true := by decide +kernel

/-- Vector D5. -/
theorem test_vector_D5 :
    decodes .p6809 0x1000 [0xA6, 0x3F] "LDA -1,Y" 2 (.m09Indexed .idx5 false) none = true := by decide +kernel

/-- Vector D12. -/
theorem test_vector_D12 :
    decodes .p6809 0x1000 [0xA6, 0xB1] "LDA [,Y++]" 2 (.m09Indexed .inc2 true) none = true := by decide +kernel

/-- Vector D15. -/
theorem test_vector_D15 :
    decodes .p6809 0x1000 [0xA6, 0xF3] "LDA [,--S]" 2 (.m09Indexed .dec2 true) none = true := by decide +kernel

/-- Vector D19. -/
theorem test_vector_D19 :
    decodes .p6809 0x1000 [0xA6, 0x9B] "LDA [D,X]" 2 (.m09Indexed .acc true) none = true := by decide +kernel

/-- Vector D22. -/
theorem test_vector_D22 :
    decodes .p6809 0x1000 [0xA6, 0x98, 0xFF] "LDA [-1,X]" 3 (.m09Indexed .const8 true) none = true := by decide +kernel

/-- Vector D23. -/
theorem test_vector_D23 :
    decodes .p6809 0x1000 [0xAE, 0x89, 0x12, 0x34] "LDX 4660,X" 4 (.m09Indexed .const16 false) none = true := by decide +kernel

/-- Vector D26. -/
theorem test_vector_D26 :
    decodes .p6809 0x1000 [0x10, 0xAE, 0x89, 0x12, 0x34] "LDY 13312,X" 5 (.m09Indexed .const16 false) none = true := by decide +kernel

/-- Vector D27. -/
theorem test_vector_D27 :
    decodes .p6809 0x1000 [0x10, 0xAE, 0x99, 0xFF, 0x80] "LDY [-32768,X]" 5 (.m09Indexed .const16 true) none = true := by decide +kernel

/-- Vector D33. -/
theorem test_vector_D33 :
    decodes .p6809 0x2000 [0x10, 0xAE, 0x9D, 0x80, 0x00] "LDY [-32768,PCR] <A005>" 5 (.m09Indexed .pcr16 true) (some 0xA005) = true := by decide +kernel

/-- Vector D35. -/
theorem test_vector_D35 :
    decodes .p6809 0x1000 [0x10, 0xAE, 0x9F, 0xC0, 0x00] "LDY [$C000]" 5 (.m09Indexed .extInd true) none = true := by decide +kernel

/-- Vector E1. -/
theorem test_vector_E1 :
    decodes .p6809 0x1000 [0xA6, 0x90] "<?ADDRMODE?>" 2 .invalid none = true := by decide +kernel

/-- Vector E8. -/
theorem test_vector_E8 :
    decodes .p6809 0x1000 [0x10, 0xAE, 0x90] "<?ADDRMODE?>" 3 .invalid none = true := by decide +kernel

/-- Vector E10. -/
theorem test_vector_E10 :
    decodes .p6809 0x1000 [0x01, 0x20] "? <$20" 2 .m09Direct none = true := by decide +kernel

/-- Vector E15. -/
theorem test_vector_E15 :
    decodes .p6809 0x1000 [0x10, 0xC3, 0x12, 0x34] "? #$1234" 4 .m09Imm16 none = true := by decide +kernel

/-- Vector E17. -/
theorem test_vector_E17 :
    decodes .p6809 0x1000 [0x11, 0xA6, 0x84] "? ,X" 3 (.m09Indexed .zero false) none = true := by decide +kernel

/-- Vector E19. -/
theorem test_vector_E19 :
    decodes .p6809E 0x1000 [0x10, 0xAE, 0x89, 0x12, 0x34] "LDY 13312,X" 5 (.m09Indexed .const16 false) none = true := by decide +kernel

/-- Vector F3. -/
theorem test_vector_F3 :
    decodes .pZ80 0x0000 [0x08] "EX AF,AF'" 1 .mz80Template none = true := by decide +kernel

/-- Vector F11. -/
theorem test_vector_F11 :
    decodes .pZ80 0x0000 [0xC4, 0xCD, 0xAB] "CALL NZ,ABCDh" 3 .mz80Template none = true := by decide +kernel

/-- Vector F20. -/
theorem test_vector_F20 :
    decodes .pZ80 0x0100 [0x38, 0x80] "JR C,-126 <0082>" 2 .mz80Template (some 0x0082) = true := by decide +kernel

/-- Vector F21. -/
theorem test_vector_F21 :
    decodes .pZ80 0xFFFF [0x18, 0x7F] "JR 129 <0080>" 2 .mz80Template (some 0x0080) = true := by decide +kernel

/-- Vector G4. -/
theorem test_vector_G4 :
    decodes .pZ80 0x0000 [0xCB, 0x30] "? B" 2 .mz80Template none = true := by decide +kernel

/-- Vector G21. -/
theorem test_vector_G21 :
    decodes .pZ80 0x0000 [0xED, 0x43, 0x34, 0x12] "LD (1234h),BC" 4 .mz80Template none = true := by decide +kernel

/-- Vector G26. -/
theorem test_vector_G26 :
    decodes .pZ80 0x0000 [0xED, 0x70] "IN ?,(C)" 2 .mz80Template none = true := by decide +kernel

/-- Vector H5. -/
theorem test_vector_H5 :
    decodes .pZ80 0x1000 [0xDD, 0x7E, 0x80] "LD A,(IX-128)" 3 .mz80Template none = true := by decide +kernel

/-- Vector H8. -/
theorem test_vector_H8 :
    decodes .pZ80 0x1000 [0xFD, 0x36, 0x80, 0xAB] "LD (IY-128),ABh" 4 .mz80Template none = true := by decide +kernel

/-- Vector H12. -/
theorem test_vector_H12 :
    decodes .pZ80 0x1000 [0xFD, 0x2A, 0x34, 0x12] "LD IY,(1234h)" 4 .mz80Template none = true := by decide +kernel

/-- Vector H18. -/
theorem test_vector_H18 :
    decodes .pZ80 0x1000 [0xDD, 0xE9] "JP (IX)" 2 .mz80Template none = true := by decide +kernel

/-- Vector H20. -/
theorem test_vector_H20 :
    decodes .pZ80 0x1000 [0xDD, 0xEB] "EX DE,IX" 2 .mz80Template none = true := by decide +kernel

/-- Vector H23. -/
theorem test_vector_H23 :
    decodes .pZ80 0x1000 [0xDD, 0x29] "ADD IX,IX" 2 .mz80Template none = true := by decide +kernel

/-- Vector C5. -/
theorem test_vector_C5 :
    decodes .p6809 0x1000 [0x0E, 0x80] "JMP <$80" 2 .m09Direct none = true := by decide +kernel

/-- Vector C9. -/
theorem test_vector_C9 :
    decodes .p6809 0x1000 [0x1A, 0x50] "ORCC #$50" 2 .m09Imm8 none = true := by decide +kernel

/-- Vector C12. -/
theorem test_vector_C12 :
    decodes .p6809 0x1000 [0x8E, 0x00, 0x01] "LDX #$0001" 3 .m09Imm16 none = true := by decide +kernel

/-- Vector C16. -/
theorem test_vector_C16 :
    decodes .p6809 0x1000 [0x10, 0x3F] "SWI2" 2 .m09Inherent none = true := by decide +kernel

/-- Vector C20. -/
theorem test_vector_C20 :
    decodes .p6809 0x0100 [0x8D, 0x80] "BSR -128 <0082>" 2 .m09Rel8 (some 0x0082) = true := by decide +kernel

/-- Vector C24. -/
theorem test_vector_C24 :
    decodes .p6809 0x2000 [0x10, 0x27, 0x7F, 0xFF] "LBEQ 32767 <A003>" 4 .m09Rel16 (some 0xA003) = true := by decide +kernel

/-- Vector C28. -/
theorem test_vector_C28 :
    decodes .p6809 0x1000 [0x1E, 0x01] "EXG D,X" 2 .m09RegPair none = true := by decide +kernel

/-- Vector C29. -/
theorem test_vector_C29 :
    decodes .p6809 0x1000 [0x1F, 0x45] "TFR S,PC" 2 .m09RegPair none = true := by decide +kernel

/-- Vector C31. -/
theorem test_vector_C31 :
    decodes .p6809 0x1000 [0x1F, 0xAC] "TFR CCR,?" 2 .m09RegPair none = true := by decide +kernel

/-- Vector C34. -/
theorem test_vector_C34 :
    decodes .p6809 0x1000 [0x34, 0x40] "PSHS S" 2 .m09RegList none = true := by decide +kernel

/-- Vector C37. -/
theorem test_vector_C37 :
    decodes .p6809 0x1000 [0x37, 0xFF] "PULU CCR,A,B,DPR,X,Y,U,PC" 2 .m09RegList none = true := by decide +kernel

/-- Vector H25. -/
theorem test_vector_H25 :
    decodes .pZ80 0x1000 [0xDD, 0x00] "NOP" 2 .mz80Template none = true := by decide +kernel

/-- Vector H29. -/
theorem test_vector_H29 :
    decodes .pZ80 0x0200 [0xDD, 0x18, 0x03] "JR 5 <0205>" 3 .mz80Template (some 0x0205) = true := by decide +kernel

/-- Vector H33. -/
theorem test_vector_H33 :
    decodes .pZ80 0x1000 [0xDD, 0xCB, 0xFE, 0x46] "BIT 0,(IX-2)" 4 .mz80Template none = true := by decide +kernel

/-- Vector H36. -/
theorem test_vector_H36 :
    decodes .pZ80 0x1000 [0xDD, 0xCB, 0x05, 0x00] "RLC B" 4 .mz80Template none = true := by decide +kernel

/-- Vector H38. -/
theorem test_vector_H38 :
    decodes .pZ80 0x1000 [0xDD, 0xCB, 0x00, 0x36] "? (IX+0)" 4 .mz80Template none = true := by decide +kernel

/-! ## The protocol, the error outcomes and the open readings -/

/-- Reset with another profile. -/
def fresh (p : Profile) : State := State.create p .reference

/-- A 6502 instruction of three bytes whose first two were fed (vector PV3). -/
def inFlight : State := { fresh .p6502 with session := {
  state := .fetching, instructionAddress := 0x1003, rawBytes := #v[0xAC, 0, 0, 0, 0, 0, 0, 0], bytesFetched := 2
  bytesRequired := 3, addressingMode := .m65Word, resolvedTargetAddress := 0, resolvedTargetValid := false
  outputString := [] } }

/-- Eight bytes held and a ninth one needed (vector V-OVF). -/
def fullBuffer : State := { fresh .pZ80 with session := {
  state := .fetching, instructionAddress := 0x4000, rawBytes := #v[0, 0x11, 0x12, 0x13, 0x14, 0x15, 0x16, 0x17]
  bytesFetched := 8, bytesRequired := 9, addressingMode := .mz80Template, resolvedTargetAddress := 0
  resolvedTargetValid := false, outputString := [] } }

/-- The reference parameters with one 6502 entry and one Z80 entry put in. -/
def edited (op : Byte) (t65 tz80 : Text) : Parameters :=
  { referenceParameters with
    t6502 := referenceParameters.t6502.set op.toNat t65 op.isLt
    tZ80 := referenceParameters.tZ80.set op.toNat tz80 op.isLt }

/-- The session after some commands on a block created with these parameters. -/
def sessionAfter (p : Profile) (t : Parameters) (cs : List Command) : Option Session :=
  match runCommands cs (State.create p (.custom t)) with
  | .next s => some s.session
  | _ => none

/-- Vector PV2: `continue` in `Idle` changes nothing but the reply. -/
theorem test_continue_idle :
    exec (.cmdContinue 0x55) State.reset = .next { State.reset with reply := .transition false } := rfl

/-- Vector PV3: the second `begin` is refused, `complete` answers the empty string, the last byte completes. -/
theorem test_in_flight :
    exec (.cmdBegin 0x2000 0xEA) inFlight = .refused .beginWhileFetching ∧
    exec .cmdComplete inFlight = .next { inFlight with reply := .text [] } ∧
    exec (.cmdContinue 0x30) inFlight = .next { inFlight with
      reply := .transition true
      session := { inFlight.session with
        state := .complete, rawBytes := #v[0xAC, 0, 0x30, 0, 0, 0, 0, 0], bytesFetched := 3
        outputString := ascii "LDY $3000" } } :=
  ⟨rfl, rfl, rfl⟩

/-- Vector V-OVF: the ninth byte is not stored. -/
theorem test_overflow :
    exec (.cmdContinue 0x18) fullBuffer = .next { fullBuffer with
      reply := .transition true
      session := { fullBuffer.session with state := .complete, outputString := ascii "<decode overflow>" } } := rfl

/-- Vector V-OVF, from its table: eight bytes leave the session in `Fetching` with nine needed. -/
theorem test_overflow_is_reachable :
    sessionAfter .pZ80 (edited 0 (ascii "?") (ascii "DB XXh,XXh,XXh,XXh,XXh,XXh,XXh,XXh"))
      (.begin 0x4000 0 :: [0x11, 0x12, 0x13, 0x14, 0x15, 0x16, 0x17].map .feed) = some fullBuffer.session := by
  decide +kernel

/-- Vector V-TRUNC: the output is cut to 28 characters, the target is not touched. -/
theorem test_truncation :
    (sessionAfter .p6502 (edited 0x02 (ascii "LONGMNEMONIC-FOR-TEST rrrr") (ascii "?")) [.begin 0x1000 0x02, .feed 0x80]).map
      (fun x => (x.outputString, x.resolvedTargetAddress)) = some (ascii "LONGMNEMONIC-FOR-TEST -128 <", 0x0F82) := by
  decide +kernel

/-- Vector V-EMPTY: an empty entry completes with an empty output. -/
theorem test_empty_entry :
    (sessionAfter .p6502 (edited 0x02 [] (ascii "?")) [.begin 0x1000 0x02]).map
      (fun x => (x.state, x.bytesRequired, x.outputString)) = some (.complete, 1, []) := by
  decide +kernel

/-- Entry U2: with `IMM16_6800 = [8C, 8E, CE]` the opcode `0x8C` takes a 16-bit immediate. -/
theorem test_open_imm16 :
    (sessionAfter .p6800 { referenceParameters with imm16Opcodes := [0x8C, 0x8E, 0xCE] }
      [.begin 0 0x8C, .feed 0x12, .feed 0x34]).map (·.outputString) = some (ascii "CPX #$1234") := by
  decide +kernel

/-- Entry U3: with `PSH_BIT6_SWAPPED` bit 6 of `PSHS` is `U`. -/
theorem test_open_bit6 :
    (sessionAfter .p6809 { referenceParameters with pshBit6Swapped := true } [.begin 0 0x34, .feed 0x40]).map
      (·.outputString) = some (ascii "PSHS U") := by
  decide +kernel

/-- Entry U5: with `CONST16_FIXED` the offset behind a page byte is the one the bytes hold. -/
theorem test_open_const16 :
    (sessionAfter .p6809 { referenceParameters with const16Fixed := true }
      (.begin 0 0x10 :: [0xAE, 0x89, 0x12, 0x34].map .feed)).map (·.outputString) = some (ascii "LDY 4660,X") := by
  decide +kernel

/-- Entry U18: with `ABS_TARGET` an absolute jump sets a target. -/
theorem test_open_abs_target :
    (sessionAfter .p6502 { referenceParameters with absTarget := true } [.begin 0 0x4C, .feed 0x34, .feed 0x12]).map
      (·.outputString) = some (ascii "JMP $1234 <1234>") := by
  decide +kernel

/-- R191: 39 of the 256 postbytes name no mode. -/
theorem test_invalid_postbytes :
    ((List.range 256).filter fun n => postbyteMode (BitVec.ofNat 8 n) = .invalid).length = 39 := by decide +kernel

/-! ## Witnesses: for each statement with hypotheses, a state and operands that meet them together -/

/-- A block created with the reference tables serves the rows its profile reads. -/
theorem serves_fresh {p : Profile} {lead : Lead} (h : profileReads p lead = true) : Serves (fresh p) lead :=
  ⟨nofun, rfl, h⟩

/-- Whether an instruction is a well-formed row of this form that a fresh block serves. -/
noncomputable def rowOf (p : Profile) (i : Instr) (lead : Lead) (operand : Operand) : Bool :=
  i.wf && decide (instrForm i = some ⟨lead, operand⟩) && profileReads p lead

/-- Small parameters: every 6502 entry takes one byte, and no other entry names anything. -/
def small : Parameters where
  t6502 := Vector.replicate 256 (ascii "LDA $nn")
  t65C02 := Vector.replicate 256 (ascii "?")
  t6800 := Vector.replicate 256 (ascii "?")
  t6809 := Vector.replicate 256 (ascii "?")
  t6809X := []
  tZ80 := Vector.replicate 256 (ascii "?")
  imm16Opcodes := standardImm16
  pshBit6Swapped := false
  const16Fixed := false
  absTarget := false

/-- A 6502 block with these parameters, one byte fed and one due. -/
def byteDue : State := { State.create .p6502 (.custom small) with
  session := (Session.started 0xFFFFFFFF 0xA5).pass .p6502 small, inbox := [.capture 0 [0xFF]] }

theorem small_entry (op : Byte) : tableAt small.t6502 op = ascii "LDA $nn" := by
  simp [tableAt, small, Vector.get]

theorem small_resolves (raw : RawBytes) (n : Nat) : resolve .p6502 small raw n = some (.m65Byte, 2) := by
  simp only [resolve, resolve6502, small_entry]
  decide +kernel

theorem small_wellFormed : WellFormed .p6502 small where
  w1 := by
    intro entry h
    change entry ∈ (Vector.replicate 256 (ascii "LDA $nn")).toList at h
    rw [Vector.toList_replicate] at h
    rw [(List.mem_replicate.mp h).2]
    decide +kernel
  w2 := by
    intro address bs mode _ _ h
    rw [small_resolves] at h
    simp only [Option.some.injEq, Prod.mk.injEq] at h
    obtain ⟨rfl, _⟩ := h
    simp only [Session.fullText, Session.rendering, Session.fetched, format, small_entry]
    change 7 ≤ 28
    decide
  w3 := by
    intro bs mode k _ _ h
    rw [small_resolves] at h
    cases h
    decide

/-- Another set that is well-formed entry by entry, and a mnemonic that is not: W1 to W3 admit it. -/
theorem test_entriesFit : entriesFit .p6809 small = true ∧
    entryFits6800 (ascii "MNEMONIC9") = false ∧ isEntry (ascii "MNEMONIC9") = true := by
  decide +kernel

theorem witness_BeginStartsAnInstruction : (fresh .p6809).session.state ≠ .fetching := by decide

theorem witness_BeginInFetchingIsRefused : inFlight.session.state = .fetching := rfl

/-- The three cases of `continue`. -/
theorem witness_ContinueInThreeCases :
    State.reset.session.state ≠ .fetching ∧
    (fullBuffer.session.state = .fetching ∧ fullBuffer.session.bytesFetched = 8) ∧
    (inFlight.session.state = .fetching ∧ inFlight.session.bytesFetched ≠ 8) := by
  decide

/-- The clauses of the pass: a decline, a length just answered and not reached, one known and not reached, the last byte
in with a length just answered and with one known, with and without a target. -/
theorem witness_PassInThreeCases :
    resolve .pZ80 referenceParameters (Session.started 0 0xDD).rawBytes 1 = none ∧
    resolve .p6502 referenceParameters (Session.started 0 0xAC).rawBytes 1 = some (.m65Word, 3) ∧
    (inFlight.session.bytesRequired ≠ 0 ∧ inFlight.session.bytesFetched ≠ inFlight.session.bytesRequired) ∧
    resolve .p6502 referenceParameters (Session.started 0 0xEA).rawBytes 1 = some (.m65Implied, 1) ∧
    (inFlight.session.append 0x30).bytesFetched = (inFlight.session.append 0x30).bytesRequired ∧
    (format .p6502 referenceParameters
      { Session.started 0 0xD0 with addressingMode := .m65Rel, bytesRequired := 2 }).target = some 2 := by
  decide +kernel

theorem witness_InFlightIsSteady :
    (∃ t, exec (.cmdContinue 0x30) inFlight = .next t) ∧ inFlight.session.state = .fetching ∧
    inFlight.session.bytesRequired ≠ 0 ∧ (∃ t, exec (.cmdContinue 0) State.reset = .next t ∧ t.session.state = .idle) :=
  ⟨⟨_, rfl⟩, rfl, by decide, ⟨_, rfl, rfl⟩⟩

/-- Eight bytes are held, and more are fed. -/
theorem witness_ContinuesNeverPassEight :
    fullBuffer.session.bytesFetched ≤ 8 ∧ ∃ t, runCommands ([0x18, 0x19].map .feed) fullBuffer = .next t :=
  ⟨by decide, _, rfl⟩

theorem witness_ConfigurationNeverChanges : ∃ t, step State.reset = .next t := ⟨_, rfl⟩

/-- A state in flight that meets the invariant, and steps. -/
theorem witness_StepKeepsTheInvariant : Inv byteDue ∧ ∃ t, step byteDue = .next t := by
  refine ⟨⟨small_wellFormed, ?_⟩, _, rfl⟩
  have hx : byteDue.session = { Session.started 0xFFFFFFFF 0xA5 with addressingMode := .m65Byte, bytesRequired := 2 } := by
    decide +kernel
  rw [hx]
  constructor
  · intro _; decide
  · exact iff_of_false (by decide) (by decide)
  · intro h; exact absurd h (by decide)
  · intro _; decide
  · intro _; exact Or.inr (by decide)
  · intro k hk
    have h1 : 1 ≤ k := hk
    match k, h1 with
    | 1, _ | 2, _ | 3, _ | 4, _ | 5, _ | 6, _ | 7, _ => rfl
    | n + 8, _ => simp [rawAt]
  · intro h; exact absurd h (by decide)
  · decide
  · intro _ h; exact absurd h (by decide)
  · intro _ _; exact small_resolves _ _

theorem witness_FormattedTextFits :
    entriesFit .p6809 small = true ∧
    resolve .p6809 small #v[0x4F, 0, 0, 0, 0, 0, 0, 0] 1 = some (.m09Inherent, 1) ∧
    resolve .p6809 small #v[0x20, 0x80, 0, 0, 0, 0, 0, 0] 2 = some (.m09Rel8, 2) := by
  decide +kernel

/-- The entry-wise conditions hold of tables for the 6502 too. -/
theorem witness_EntryConditionsSuffice : entriesFit .p6502 small = true := by decide +kernel

/-- Both clauses: an answer on one byte and on eight, and four bytes. -/
theorem witness_ResolverAnswersWithinEight :
    WellFormed .p6502 small ∧ resolve .p6502 small #v[0xA5, 0, 0, 0, 0, 0, 0, 0] 1 = some (.m65Byte, 2) ∧
    resolve .p6502 small #v[0xA5, 1, 2, 3, 4, 5, 6, 7] 8 = some (.m65Byte, 2) :=
  ⟨small_wellFormed, small_resolves _ _, small_resolves _ _⟩

/-- Both clauses: seven more bytes with well-formed tables, four more with the reference parameters. -/
theorem witness_CompletionIsBounded :
    (State.create .p6502 (.custom small)).session.state ≠ .fetching ∧
    WellFormed (State.create .p6502 (.custom small)).profile
      (parametersOf (State.create .p6502 (.custom small)).parameters) ∧
    (fresh .p6809).session.state ≠ .fetching ∧ (fresh .p6809).parameters = .reference :=
  ⟨by decide, small_wellFormed, by decide, rfl⟩

/-- With a target and without one. -/
theorem witness_AddressOnlyReachesTheTarget :
    (∃ t, runCommands [.begin 0xFFFF 0xD0, .feed 0x80] (fresh .p6502) = .next t ∧
      t.session.resolvedTargetValid = true) ∧
    (∃ t, runCommands [.begin 0 0xD0, .feed 0x80] (fresh .p6502) = .next t) ∧
    (∃ t, runCommands [.begin 1 0xEA] (fresh .p6502) = .next t ∧ t.session.resolvedTargetValid = false) ∧
    (∃ t, runCommands [.begin 2 0xEA] (fresh .p6502) = .next t) :=
  ⟨⟨_, rfl, rfl⟩, ⟨_, rfl⟩, ⟨_, rfl, rfl⟩, ⟨_, rfl⟩⟩

theorem witness_P6809EDecodesAsP6809 :
    ∃ t, exec (.bra ⟨.m6809 0x20, .byte 0xFD⟩) { fresh .p6809E with profile := .p6809 } = .next t := ⟨_, rfl⟩

/-- Two sessions, one of them commanded. -/
theorem witness_SessionsDoNotInterfere :
    ∃ b r, (Bank.mk .p6502 .reference [Session.reset, inFlight.session]).command 1 (.feed 0x30) = .next (b, r) :=
  ⟨_, _, rfl⟩

/-- A row and a postbyte row, with the longest operand. -/
theorem witness_DecodeOfEncode :
    rowOf .p6809E (.ldy ⟨.paged .page2 0xAE, .index16 0x89 0xFFFF⟩) (.paged .page2 0xAE) (.index16 0x89 0xFFFF) = true ∧
    rowOf .p6809 (.postConst16 ⟨.postbyte 0x89, .word 0xFFFF⟩) (.postbyte 0x89) (.word 0xFFFF) = true := by
  decide +kernel

/-- Both readings: bytes with bytes after them, and a postbyte. -/
theorem witness_EncodeOfDecode :
    decode .p6502 .reference [0xEA, 0, 0, 0, 0] = .ok (.nop ⟨.mos6502 .nmos 0xEA, .none⟩, [0, 0, 0, 0]) ∧
    decodePostbyte [0x84] = .ok (.postZero ⟨.postbyte 0x84, .none⟩, []) := by
  decide +kernel

/-- The clauses of a step: captured bytes outside `Fetching`, a byte in `Fetching`, an awaited postbyte, a command. -/
theorem witness_StepRunsWhatItReads :
    (fresh .p6502).session.state ≠ .fetching ∧
    decode (fresh .p6502).profile (fresh .p6502).parameters [0xEA] = .ok (.nop ⟨.mos6502 .nmos 0xEA, .none⟩, []) ∧
    (inFlight.session.state = .fetching ∧ awaitsPostbyte inFlight = false) ∧
    (awaitsPostbyte { fresh .p6809 with session := Session.started 0 0xA6 } = true ∧
      decodePostbyte [0x84] = .ok (.postZero ⟨.postbyte 0x84, .none⟩, [])) := by
  decide +kernel

/-- A one-byte row, and one of five bytes. -/
theorem witness_RowIsItsCommands :
    rowOf .p6502 (.nop ⟨.mos6502 .nmos 0xEA, .none⟩) (.mos6502 .nmos 0xEA) .none = true ∧
    encode (.nop ⟨.mos6502 .nmos 0xEA, .none⟩) = [0xEA] ∧
    rowOf .p6809 (.ldy ⟨.paged .page2 0xAE, .index16 0x89 0x1234⟩) (.paged .page2 0xAE) (.index16 0x89 0x1234) = true ∧
    encode (.ldy ⟨.paged .page2 0xAE, .index16 0x89 0x1234⟩) = [0x10, 0xAE, 0x89, 0x12, 0x34] := by
  decide +kernel

theorem witness_PostbyteRowIsItsCommands :
    rowOf .p6809 (.postZero ⟨.postbyte 0x84, .none⟩) (.postbyte 0x84) .none = true ∧
    isPostbyte (.postbyte 0x84) = true := by
  decide +kernel

/-- Behind a page byte, with offset bytes. -/
theorem witness_PostbyteRowFinishesTheIndexedRow :
    rowOf .p6809 (.ldy ⟨.paged .page2 0xAE, .index16 0x89 0x1234⟩) (.paged .page2 0xAE) (.index16 0x89 0x1234) = true ∧
    leadKind (.paged .page2 0xAE) = .indexed ∧
    rowOf .p6809 (.postConst16 ⟨.postbyte 0x89, .word 0x1234⟩) (.postbyte 0x89) (.word 0x1234) = true ∧
    encode (.ldy ⟨.paged .page2 0xAE, .index16 0x89 0x1234⟩) =
      leadBytes (.paged .page2 0xAE) ++ encode (.postConst16 ⟨.postbyte 0x89, .word 0x1234⟩) ∧
    (∃ u, runCommands [.begin 0 0x10, .feed 0xAE] (fresh .p6809) = .next u) := by
  refine ⟨by decide +kernel, by decide +kernel, by decide +kernel, by decide +kernel, _, rfl⟩

theorem witness_EveryServedRowCompletes :
    rowOf .pZ80 (.nop ⟨.z80 0x00, .none⟩) (.z80 0x00) .none = true ∧ Serves (fresh .pZ80) (.z80 0x00) :=
  ⟨by decide +kernel, serves_fresh rfl⟩

/-- Rows of the two 6502 tables: no operand, a byte, a word, an offset. Every one is served: `serves_fresh`. -/
theorem witness_Mos6502Rows :
    rowOf .p6502 (.unknown ⟨.mos6502 .nmos 0xFF, .none⟩) (.mos6502 .nmos 0xFF) .none = true ∧
    (rowOf .p65C02 (.stzZp ⟨.mos6502 .cmos 0x64, .byte 0xFF⟩) (.mos6502 .cmos 0x64) (.byte 0xFF) = true ∧
      contains (rowText (.mos6502 .cmos 0x64)) (ascii "nn") = true) ∧
    rowOf .p6502 (.ldyAbs ⟨.mos6502 .nmos 0xAC, .word 0x3000⟩) (.mos6502 .nmos 0xAC) (.word 0x3000) = true ∧
    (rowOf .p6502 (.bplRel ⟨.mos6502 .nmos 0x10, .byte 0x80⟩) (.mos6502 .nmos 0x10) (.byte 0x80) = true ∧
      contains (rowText (.mos6502 .nmos 0x10)) (ascii "nn") = false) := by
  decide +kernel

/-- Rows of the 6800: inherent, relative (`0x8D` and the row 2), indexed, extended, direct, both immediates. -/
theorem witness_M6800Rows :
    rowOf .p6800 (.unknown ⟨.m6800 0x00, .none⟩) (.m6800 0x00) .none = true ∧
    rowOf .p6800 (.bsr ⟨.m6800 0x8D, .byte 0x80⟩) (.m6800 0x8D) (.byte 0x80) = true ∧
    rowOf .p6800 (.ble ⟨.m6800 0x2F, .byte 0x7F⟩) (.m6800 0x2F) (.byte 0x7F) = true ∧
    rowOf .p6800 (.ldaa ⟨.m6800 0xA6, .byte 0⟩) (.m6800 0xA6) (.byte 0) = true ∧
    rowOf .p6800 (.staa ⟨.m6800 0xB7, .word 0x1234⟩) (.m6800 0xB7) (.word 0x1234) = true ∧
    rowOf .p6800 (.ldaa ⟨.m6800 0x96, .byte 0x20⟩) (.m6800 0x96) (.byte 0x20) = true ∧
    rowOf .p6800 (.cpx ⟨.m6800 0x8C, .byte 0x12⟩) (.m6800 0x8C) (.byte 0x12) = true ∧
    rowOf .p6800 (.lds ⟨.m6800 0x8E, .word 0x01FF⟩) (.m6800 0x8E) (.word 0x01FF) = true := by
  decide +kernel

/-- Rows of the 6809 without a postbyte, with and without a page byte: one of each mode. -/
theorem witness_M6809Rows :
    Is6809 .p6809 ∧ Is6809 .p6809E ∧
    rowOf .p6809 (.unknown ⟨.paged .page2 0x10, .none⟩) (.paged .page2 0x10) .none = true ∧
    (rowOf .p6809 (.lda ⟨.m6809 0x96, .byte 0x20⟩) (.m6809 0x96) (.byte 0x20) = true ∧
      baseMode6809 0x96 false = some .m09Direct) ∧
    (rowOf .p6809 (.cwai ⟨.m6809 0x3C, .byte 0xFF⟩) (.m6809 0x3C) (.byte 0xFF) = true ∧
      baseMode6809 0x3C false = some .m09Imm8) ∧
    (rowOf .p6809 (.jmp ⟨.m6809 0x7E, .word 0xC000⟩) (.m6809 0x7E) (.word 0xC000) = true ∧
      baseMode6809 0x7E false = some .m09Extended) ∧
    (rowOf .p6809 (.cmps ⟨.paged .page3 0x8C, .word 1⟩) (.paged .page3 0x8C) (.word 1) = true ∧
      baseMode6809 0x8C true = some .m09Imm16) ∧
    (rowOf .p6809 (.bsr ⟨.m6809 0x8D, .byte 0x80⟩) (.m6809 0x8D) (.byte 0x80) = true ∧
      baseMode6809 0x8D false = some .m09Rel8) ∧
    (rowOf .p6809 (.lble ⟨.paged .page2 0x2F, .word 0x8000⟩) (.paged .page2 0x2F) (.word 0x8000) = true ∧
      baseMode6809 0x2F true = some .m09Rel16) ∧
    rowOf .p6809 (.tfr ⟨.m6809 0x1F, .byte 0xAC⟩) (.m6809 0x1F) (.byte 0xAC) = true ∧
    rowOf .p6809 (.pshs ⟨.m6809 0x34, .byte 0⟩) (.m6809 0x34) (.byte 0) = true ∧
    rowOf .p6809 (.pulu ⟨.m6809 0x37, .byte 0xFF⟩) (.m6809 0x37) (.byte 0xFF) = true := by
  refine ⟨.inl rfl, .inr rfl, ?_⟩
  decide +kernel

/-- Indexed rows of the 6809: a postbyte of each statement, the first of its range and one with brackets. -/
theorem witness_M6809IndexedRows :
    rowOf .p6809 (.lda ⟨.m6809 0xA6, .index 0x00⟩) (.m6809 0xA6) (.index 0x00) = true ∧
    ([0x80, 0x81, 0x82, 0x83, 0x84, 0x85, 0x86, 0x8B, 0x91, 0x93, 0x94, 0x95, 0x96, 0xFB] : List Byte).all
      (fun pb => rowOf .p6809 (.lda ⟨.m6809 0xA6, .index pb⟩) (.m6809 0xA6) (.index pb)) = true ∧
    rowOf .p6809 (.lda ⟨.m6809 0xA6, .index8 0x88 0x80⟩) (.m6809 0xA6) (.index8 0x88 0x80) = true ∧
    rowOf .p6809 (.lda ⟨.m6809 0xA6, .index8 0xF8 0x7F⟩) (.m6809 0xA6) (.index8 0xF8 0x7F) = true ∧
    rowOf .p6809 (.ldx ⟨.m6809 0xAE, .index16 0x89 0xFFFE⟩) (.m6809 0xAE) (.index16 0x89 0xFFFE) = true ∧
    rowOf .p6809 (.ldy ⟨.paged .page2 0xAE, .index16 0x99 0xFF80⟩) (.paged .page2 0xAE) (.index16 0x99 0xFF80) = true ∧
    rowOf .p6809 (.lda ⟨.m6809 0xA6, .index8 0x8C 0xFD⟩) (.m6809 0xA6) (.index8 0x8C 0xFD) = true ∧
    rowOf .p6809 (.ldy ⟨.paged .page2 0xAE, .index16 0x9D 0x8000⟩) (.paged .page2 0xAE) (.index16 0x9D 0x8000) = true ∧
    rowOf .p6809 (.lda ⟨.m6809 0xA6, .index16 0x9F 0x1234⟩) (.m6809 0xA6) (.index16 0x9F 0x1234) = true ∧
    (rowOf .p6809 (.lda ⟨.m6809 0xA6, .index 0x90⟩) (.m6809 0xA6) (.index 0x90) = true ∧
      postbyteMode 0x90 = .invalid) := by
  decide +kernel

/-- Rows of the Z80: no placeholder (also under each prefix), a word, each one-byte placeholder, the displacement with a
byte, the compound form with a displacement and with a register. -/
theorem witness_Z80Rows :
    rowOf .pZ80 (.nop ⟨.z80 0x00, .none⟩) (.z80 0x00) .none = true ∧
    rowOf .pZ80 (.unknown ⟨.xy .iy 0xFD, .none⟩) (.xy .iy 0xFD) .none = true ∧
    rowOf .pZ80 (.unknown ⟨.ed 0xFF, .none⟩) (.ed 0xFF) .none = true ∧
    rowOf .pZ80 (instrOf ⟨.cb 0x46, .none⟩) (.cb 0x46) .none = true ∧
    rowOf .pZ80 (instrOf ⟨.z80 0x21, .word 0x1234⟩) (.z80 0x21) (.word 0x1234) = true ∧
    (rowOf .pZ80 (instrOf ⟨.z80 0x3E, .byte 0x41⟩) (.z80 0x3E) (.byte 0x41) = true ∧
      contains (rowText (.z80 0x3E)) (ascii "XXh") = true) ∧
    (rowOf .pZ80 (instrOf ⟨.xy .ix 0x7E, .byte 0x80⟩) (.xy .ix 0x7E) (.byte 0x80) = true ∧
      contains (rowText (.xy .ix 0x7E)) (ascii "+ddd") = true) ∧
    (rowOf .pZ80 (instrOf ⟨.z80 0x18, .byte 0x7F⟩) (.z80 0x18) (.byte 0x7F) = true ∧
      contains (rowText (.z80 0x18)) (ascii "rrrr") = true) ∧
    rowOf .pZ80 (instrOf ⟨.xy .iy 0x36, .dispByte 0x80 0xAB⟩) (.xy .iy 0x36) (.dispByte 0x80 0xAB) = true ∧
    rowOf .pZ80 (instrOf ⟨.xyCb .ix 0xFE 0x46, .none⟩) (.xyCb .ix 0xFE 0x46) .none = true ∧
    rowOf .pZ80 (instrOf ⟨.xyCb .iy 5 0x00, .none⟩) (.xyCb .iy 5 0x00) .none = true := by
  decide +kernel

/-- A template without `HL`, and an occurrence in parentheses and one outside. -/
theorem witness_Z80RewriteReplacesEveryHL :
    contains (ascii "LD A,B") (ascii "HL") = false ∧
    (ascii "LD (HL),HL" = ascii "LD (" ++ ascii "HL" ++ ascii "),HL" ∧
      ascii "JP (HL)" ∉ [ascii "LD (HL),HL", ascii "LD (", ascii "),HL"]) ∧
    (ascii "INC HL" = ascii "INC " ++ ascii "HL" ++ [] ∧ ascii "JP (HL)" ∉ [ascii "INC HL", ascii "INC ", []]) := by
  decide +kernel

/-- The reference tables hold characters of 7-bit ASCII only, as strings (R6, R12). -/
theorem test_tables_are_ascii :
    ([referenceT6502List, referenceT65C02List, referenceT6800List, referenceT6809List, referenceTZ80List].flatten.all
      fun entry => entry.toList.all fun c => decide (c.toNat < 128)) = true := by
  decide +kernel

end Sys2Proof.Tests
end

