-- ==== Sys2Proof/Proofs/Scope.lean ====
section
/-! SUPPORT. Decoding read backwards (R8, R83, R86): the grids keep the form they are given, an operand that was read is
the operand its row asks for, and a decoded row is the bytes it was read from. -/

namespace Sys2Proof.Machine

/-! ## The form of a grid's row -/

/-- The row grids that `instrOf` reads. -/
noncomputable def rowGrids : List RowGrid :=
  [rowsT6502, rowsT65C02, rowsT6800, rowsT6809, rowsPage2, rowsPage3, rowsTZ80, rowsCB, rowsED, rowsXY, rowsXYCB,
    rowsPostbyte]

set_option maxRecDepth 10000 in
/-- Twelve grids of 256 rows, and each row's constructor only wraps its form. -/
theorem map_instrForm_rowGrids :
    rowGrids.map (fun grid => grid.map fun c f => instrForm (c f)) = List.replicate 12 (List.replicate 256 some) := rfl

theorem instrForm_of_mem_rowGrids {grid : RowGrid} (hg : grid ∈ rowGrids) {c : Form → Instr} (hc : c ∈ grid) (f : Form) :
    instrForm (c f) = some f := by
  have hgrid : grid.map (fun c f => instrForm (c f)) = List.replicate 256 some := by
    have h := List.mem_map_of_mem (f := fun grid : RowGrid => grid.map fun c f => instrForm (c f)) hg
    rw [map_instrForm_rowGrids] at h
    exact List.eq_of_mem_replicate h
  have hrow : (fun f => instrForm (c f)) ∈ List.replicate 256 (some : Form → Option Form) :=
    hgrid ▸ List.mem_map_of_mem (f := fun (c : Form → Instr) f => instrForm (c f)) hc
  exact congrFun (List.eq_of_mem_replicate hrow) f

theorem instrForm_gridAt {grid : RowGrid} (hg : grid ∈ rowGrids) (op : Byte) (f : Form) :
    instrForm (gridAt grid op f) = some f := by
  unfold gridAt
  by_cases hlt : op.toNat < grid.length
  · rw [List.getD_eq_getElem _ _ hlt]
    exact instrForm_of_mem_rowGrids hg (List.getElem_mem hlt) f
  · rw [List.getD_eq_default _ _ (Nat.le_of_not_lt hlt)]
    rfl

/-- The instruction of a form carries that form. -/
@[simp] theorem instrForm_instrOf (f : Form) : instrForm (instrOf f) = some f := by
  obtain ⟨lead, operand⟩ := f
  match lead with
  | .mos6502 .nmos _ | .mos6502 .cmos _ | .m6800 _ | .m6809 _ | .paged .page2 _ | .paged .page3 _ | .z80 _ | .cb _ | .ed _
  | .xy _ _ | .xyCb _ _ _ | .postbyte _ => exact instrForm_gridAt (by simp [rowGrids]) _ _

@[simp] theorem encode_instrOf (f : Form) : encode (instrOf f) = formBytes f := by simp [encode]

/-- The instruction of a form is well-formed just when the form fits its row. -/
@[simp] theorem wf_instrOf (f : Form) : (instrOf f).wf = formFits f := by simp [Instr.wf]

/-! ## Operands -/

/-- The bytes of a word are the two bytes it was assembled from (R10, R53). -/
@[simp] theorem wordBytes_wordOf (big : Bool) (b0 b1 : Byte) : wordBytes big (wordOf big b0 b1) = [b0, b1] := by
  have high (a b : Byte) : (a ++ b).extractLsb' 8 8 = a := by
    rw [BitVec.extractLsb'_append_eq_of_le (by omega)]; simp
  have low (a b : Byte) : (a ++ b).extractLsb' 0 8 = b := by
    rw [BitVec.extractLsb'_append_eq_of_add_le (by omega)]; simp
  cases big
  · simp only [wordBytes, wordOf, le16, high, low, Bool.false_eq_true, if_false]
  · simp only [wordBytes, wordOf, be16, high, low, if_true]

/-- A postbyte takes one to three bytes, itself included (R190). -/
theorem extra6809_postbyteMode (pb : Byte) :
    extra6809 (postbyteMode pb) = 1 ∨ extra6809 (postbyteMode pb) = 2 ∨ extra6809 (postbyteMode pb) = 3 := by
  revert pb
  decide +kernel

/-- The most operand bytes of a shape. -/
def operandRoom : OperandKind → Nat
  | .none => 0
  | .byte => 1
  | .word | .dispByte => 2
  | .indexed => 3

theorem operandRoom_le (kind : OperandKind) : operandRoom kind ≤ 3 := by cases kind <;> decide

/-- What reading an operand of a shape from `bs` may answer: nothing when the bytes are too few, else an operand of that
shape whose bytes stand at the head of `bs`. -/
def OperandSound (big : Bool) (kind : OperandKind) (bs : List Byte) : Option (Operand × List Byte) → Prop
  | none => bs.length < operandRoom kind
  | some (operand, rest) => operandFits kind operand = true ∧ operandBytes big operand ++ rest = bs ∧
      (operandBytes big operand).length ≤ operandRoom kind

/-- An index postbyte is read with just the bytes its mode asks for (R75, R190). -/
theorem readOperand_indexed_sound (big : Bool) (pb : Byte) (bs : List Byte) :
    OperandSound big .indexed (pb :: bs) (readOperand big .indexed (pb :: bs)) := by
  obtain h | h | h := extra6809_postbyteMode pb
  · simp [readOperand, h, OperandSound, operandFits, operandBytes, operandRoom]
  · match bs with
    | [] => simp [readOperand, h, OperandSound, operandRoom]
    | b :: bs => simp [readOperand, h, OperandSound, operandFits, operandBytes, operandRoom]
  · match bs with
    | [] | [b0] => simp [readOperand, h, OperandSound, operandRoom]
    | b0 :: b1 :: bs => simp [readOperand, h, OperandSound, operandFits, operandBytes, operandRoom]

theorem readOperand_sound (big : Bool) (kind : OperandKind) (bs : List Byte) :
    OperandSound big kind bs (readOperand big kind bs) := by
  match kind, bs with
  | .none, bs => simp [readOperand, OperandSound, operandFits, operandBytes, operandRoom]
  | .byte, [] | .word, [] | .word, [_] | .dispByte, [] | .dispByte, [_] | .indexed, [] =>
    simp [readOperand, OperandSound, operandRoom]
  | .byte, b :: bs => simp [readOperand, OperandSound, operandFits, operandBytes, operandRoom]
  | .word, b0 :: b1 :: bs => simp [readOperand, OperandSound, operandFits, operandBytes, operandRoom]
  | .dispByte, d :: b :: bs => simp [readOperand, OperandSound, operandFits, operandBytes, operandRoom]
  | .indexed, pb :: bs => exact readOperand_indexed_sound big pb bs

/-! ## Forms -/

/-- No row is longer than five bytes: the one lead of four bytes takes no operand (R75, R251). -/
theorem leadBytes_add_operandRoom_le (lead : Lead) :
    (leadBytes lead).length + operandRoom (leadKind lead) ≤ longestInstr := by
  have hroom := operandRoom_le (leadKind lead)
  cases lead with
  | xyCb reg disp op => simp [leadBytes, leadKind, operandRoom, longestInstr]
  | _ => simp only [leadBytes, List.length_cons, List.length_nil, longestInstr]; omega

/-- What reading a form from `bs` may answer: an error when the bytes are fewer than the longest instruction takes, else
a form that fits a row and whose bytes stand at the head of `bs`. -/
def FormSound (bs : List Byte) : Except DecodeError (Form × List Byte) → Prop
  | .error _ => bs.length < longestInstr
  | .ok (f, rest) => formFits f = true ∧ formBytes f ++ rest = bs ∧ (formBytes f).length ≤ longestInstr

/-- Reading the operand of a lead that opens no other form. -/
theorem readForm_sound (lead : Lead) (hopens : leadOpens lead = true) (bs : List Byte) :
    FormSound (leadBytes lead ++ bs) (readForm lead bs) := by
  have hlen := leadBytes_add_operandRoom_le lead
  have hread := readOperand_sound (isBigEndian lead) (leadKind lead) bs
  unfold readForm
  cases hr : readOperand (isBigEndian lead) (leadKind lead) bs with
  | none =>
    rw [hr] at hread
    simp only [OperandSound] at hread
    simp only [FormSound, List.length_append]
    omega
  | some result =>
    obtain ⟨operand, rest⟩ := result
    rw [hr] at hread
    obtain ⟨hfits, hbytes, hroom⟩ := hread
    refine ⟨by simp [formFits, hopens, hfits], by simp [formBytes, hbytes], ?_⟩
    simp only [formBytes, List.length_append]
    omega

theorem decode6809_sound (b0 : Byte) (bs : List Byte) : FormSound (b0 :: bs) (decode6809 b0 bs) := by
  unfold decode6809
  split
  case isTrue hpage =>
    match bs with
    | [] => simp [FormSound, longestInstr]
    | op :: bs =>
      obtain rfl | rfl := hpage
      · exact readForm_sound (.paged .page2 op) rfl bs
      · exact readForm_sound (.paged .page3 op) rfl bs
  case isFalse hpage => exact readForm_sound (.m6809 b0) (by simpa [leadOpens, isPageByte] using hpage) bs

/-- After the byte of an index register: the compound form behind `0xCB`, else a form of one more opcode byte (R241). -/
theorem decodeZ80_iregByte_sound (reg : IndexReg) (op : Byte) (bs : List Byte) :
    FormSound (iregByte reg :: op :: bs) (decodeZ80 (iregByte reg) (op :: bs)) := by
  have hireg : iregOf (iregByte reg) = reg := by cases reg <;> rfl
  have hlead : isZ80LeadIn (iregByte reg) = true := by cases reg <;> rfl
  have hcb : iregByte reg ≠ 0xCB := by cases reg <;> decide
  have hed : iregByte reg ≠ 0xED := by cases reg <;> decide
  simp only [decodeZ80, hireg, if_pos hlead, if_neg hcb, if_neg hed]
  split
  case isTrue hop =>
    subst hop
    match bs with
    | [] | [_] => simp [FormSound, longestInstr]
    | disp :: op4 :: bs => exact readForm_sound (.xyCb reg disp op4) rfl bs
  case isFalse hop => exact readForm_sound (.xy reg op) (by simpa [leadOpens] using hop) bs

theorem decodeZ80_sound (b0 : Byte) (bs : List Byte) : FormSound (b0 :: bs) (decodeZ80 b0 bs) := by
  by_cases hlead : isZ80LeadIn b0 = true
  · match bs with
    | [] => simp [decodeZ80, hlead, FormSound, longestInstr]
    | op :: bs =>
      have hb0 : ((b0 = 0xCB ∨ b0 = 0xED) ∨ b0 = 0xDD) ∨ b0 = 0xFD := by simpa [isZ80LeadIn] using hlead
      obtain ((rfl | rfl) | rfl) | rfl := hb0
      · exact readForm_sound (.cb op) rfl bs
      · exact readForm_sound (.ed op) rfl bs
      · exact decodeZ80_iregByte_sound .ix op bs
      · exact decodeZ80_iregByte_sound .iy op bs
  · unfold decodeZ80
    rw [if_neg hlead]
    exact readForm_sound (.z80 b0) (by simpa [leadOpens] using hlead) bs

theorem decodeForm_sound (p : Profile) (bs : List Byte) : FormSound bs (decodeForm p bs) := by
  match bs with
  | [] => simp [decodeForm, FormSound, longestInstr]
  | b0 :: bs =>
    cases p with
    | p6502 => exact readForm_sound (.mos6502 .nmos b0) rfl bs
    | p65C02 => exact readForm_sound (.mos6502 .cmos b0) rfl bs
    | p6800 => exact readForm_sound (.m6800 b0) rfl bs
    | p6809 | p6809E => exact decode6809_sound b0 bs
    | pZ80 => exact decodeZ80_sound b0 bs

/-! ## Instructions -/

/-- With as many bytes as the longest instruction takes, a form is read. -/
theorem decodeForm_total (p : Profile) (bs : List Byte) (hlen : longestInstr ≤ bs.length) :
    ∃ f rest, decodeForm p bs = .ok (f, rest) := by
  have hsound := decodeForm_sound p bs
  cases hd : decodeForm p bs with
  | ok result => exact ⟨result.1, result.2, rfl⟩
  | error e =>
    rw [hd] at hsound
    exact absurd hlen (Nat.not_le_of_lt hsound)

theorem decode_reference_of_decodeForm {p : Profile} {bs rest : List Byte} {f : Form}
    (h : decodeForm p bs = .ok (f, rest)) : decode p .reference bs = .ok (instrOf f, rest) := by
  simp [decode, h]

/-- What decodes, either way, is the instruction of a form that was read from these bytes. -/
theorem exists_form_of_decode {i : Instr} {p : Profile} {bs rest : List Byte}
    (h : decode p .reference bs = .ok (i, rest) ∨ decodePostbyte bs = .ok (i, rest)) :
    ∃ f, i = instrOf f ∧ FormSound bs (.ok (f, rest)) := by
  obtain h | h := h
  · have hsound := decodeForm_sound p bs
    cases hd : decodeForm p bs with
    | error e => simp [decode, hd] at h
    | ok result =>
      simp only [decode, hd, Except.ok.injEq, Prod.mk.injEq] at h
      obtain ⟨rfl, rfl⟩ := h
      exact ⟨result.1, rfl, hd ▸ hsound⟩
  · match bs with
    | [] => simp [decodePostbyte] at h
    | pb :: bs =>
      have hsound := readForm_sound (.postbyte pb) rfl bs
      cases hd : readForm (.postbyte pb) bs with
      | error e => simp [decodePostbyte, hd] at h
      | ok result =>
        simp only [decodePostbyte, hd, Except.ok.injEq, Prod.mk.injEq] at h
        obtain ⟨rfl, rfl⟩ := h
        exact ⟨result.1, rfl, hd ▸ hsound⟩

/-- Settles O23: five bytes are as many as any row takes, and the decoder wraps a form that was read into the row of that
form. -/
theorem encodeOfDecode : Obligations.EncodeOfDecode := by
  constructor
  · intro p bs hlen
    obtain ⟨f, rest, hf⟩ := decodeForm_total p bs hlen
    exact ⟨instrOf f, rest, decode_reference_of_decodeForm hf⟩
  · intro i p bs rest h
    obtain ⟨f, rfl, hfits, hbytes, hlen⟩ := exists_form_of_decode h
    rw [wf_instrOf, encode_instrOf]
    exact ⟨hfits, hbytes, List.length_pos_iff.mpr (formBytes_ne_nil f), hlen⟩

end Sys2Proof.Machine
end

