-- ==== Sys2Proof/Proofs/Stepping.lean ====
section
/-! SUPPORT. What a step fetches from each kind of request (log entries 4, 5 and 24). -/

namespace Sys2Proof.Machine

section
variable {s : State} {a : Address} {b : Byte} {bs rest : List Byte} {rs : List Request} {i : Instr}

/-- Outside `Fetching` captured bytes are the row they decode to, with the bytes it takes. -/
theorem captureInstr_of_decode (hs : s.session.state ≠ .fetching)
    (hd : decode s.profile s.parameters (b :: bs) = .ok (i, rest)) :
    captureInstr s a b bs = (i, (b :: bs).length - rest.length) := by
  simp [captureInstr, hs, hd]

/-- In `Fetching`, with no postbyte awaited, a captured byte is one `continue` (R111). -/
theorem captureInstr_of_fetching (hs : s.session.state = .fetching) (hw : awaitsPostbyte s = false) :
    captureInstr s a b bs = (.cmdContinue b, 1) := by
  simp [captureInstr, hs, hw]

/-- A session that awaits its postbyte gets the postbyte row (R187). -/
theorem captureInstr_of_decodePostbyte (hs : s.session.state = .fetching) (hw : awaitsPostbyte s = true)
    (hd : decodePostbyte (b :: bs) = .ok (i, rest)) :
    captureInstr s a b bs = (i, (b :: bs).length - rest.length) := by
  simp [captureInstr, hs, hw, hd]

/-- A step on captured bytes runs the instruction at their head, and leaves the bytes after it in the inbox. -/
theorem step_capture {n : Nat} (hin : s.inbox = .capture a (b :: bs) :: rs) (hc : captureInstr s a b bs = (i, n)) :
    step s = exec i { s with
      feedAddress := a
      inbox := .capture (a + BitVec.ofNat 32 n) ((b :: bs).drop n) :: rs } := by
  simp only [step, fetch, hin, fetchFrom, hc, addressAfter]

theorem step_command {c : Command} (hin : s.inbox = .command c :: rs) :
    step s = exec c.instr { s with inbox := rs } := by
  simp only [step, fetch, hin, fetchFrom]

theorem step_empty (hin : s.inbox = []) : step s = .next s := by simp only [step, fetch, hin, fetchFrom]

/-- No profile and no tables read an instruction from no bytes. -/
theorem ne_nil_of_decode {p : Profile} {t : ParameterSet} (hd : decode p t bs = .ok (i, rest)) : bs ≠ [] := by
  rintro rfl
  cases t <;> simp [decode, decodeForm] at hd

end

/-- Settles O25, one clause per kind of request; the bytes a capture goes on with are those `captureInstr` left. -/
theorem stepRunsWhatItReads : Obligations.StepRunsWhatItReads := by
  refine ⟨?_, ?_, fun _ _ _ => step_command, fun _ => step_empty⟩
  · intro s a bs rest rs i hin hs hd
    match bs with
    | [] => exact absurd rfl (ne_nil_of_decode hd)
    | b :: bs => exact step_capture hin (captureInstr_of_decode hs hd)
  · intro s a b bs rs hin hs
    exact ⟨fun hw => step_capture hin (captureInstr_of_fetching hs hw),
      fun hw i rest hd => step_capture hin (captureInstr_of_decodePostbyte hs hw hd)⟩

end Sys2Proof.Machine
end

