-- ==== Sys2Proof/Proofs/Reach.lean ====
section
/-! SUPPORT. What an instruction and a step can write: the session and the reply, and which sessions they reach (R110 to
R112, R300). -/

namespace Sys2Proof.Machine

variable {p : Profile} {t : Parameters} {x : Session} {s s' : State}

/-! ## Byte counts -/

@[simp] theorem pass_fetched (p : Profile) (t : Parameters) (x : Session) :
    (x.pass p t).bytesFetched = x.bytesFetched := by
  have resolved_fetched {y : Session} (h : x.resolved p t = some y) : y.bytesFetched = x.bytesFetched := by
    obtain ⟨_, rfl⟩ | ⟨_, _, _, _, rfl⟩ := resolved_cases h <;> rfl
  obtain ⟨_, h⟩ | ⟨y, hr, _, h⟩ | ⟨y, hr, _, h⟩ := pass_cases p t x
  · rw [h]
  · rw [h, resolved_fetched hr]
  · rw [h, finish_fetched, resolved_fetched hr]

/-- `continue` counts no byte beyond the eighth: at eight it overflows (R111). -/
theorem feed_fetched_le (b : Byte) (h : x.bytesFetched ≤ maxBytes) : (x.feed p t b).bytesFetched ≤ maxBytes := by
  obtain ⟨_, hx⟩ | ⟨_, _, hx⟩ | ⟨_, hne, hx⟩ := feed_cases p t b x
  · rwa [hx]
  · rwa [hx, completeWith_fetched]
  · rw [hx, pass_fetched, append_fetched]
    omega

/-- What every `continue` keeps holds after any list of them. -/
theorem feedAll_keeps {P : Session → Prop} (hfeed : ∀ x b, P x → P (x.feed p t b)) (bs : List Byte) (h : P x) :
    P (feedAll p t bs x) := by
  induction bs generalizing x with
  | nil => exact h
  | cons b bs ih => exact ih (hfeed x b h)

/-! ## Instructions -/

/-- As `exec_cases`, with the one fact about a row's string that no form changes: it has a first character. -/
theorem exec_cases_text (i : Instr) (s : State) :
    (∃ c text f, exec i s = runRow (c :: text) f s) ∨
    (∃ f, exec i s = feedPostbyte f s) ∨
    (∃ c : Command, exec i s = runCommand c s) := by
  cases i with
  | cmdBegin a b => exact .inr (.inr ⟨.begin a b, rfl⟩)
  | cmdContinue b => exact .inr (.inr ⟨.feed b, rfl⟩)
  | cmdComplete => exact .inr (.inr ⟨.complete, rfl⟩)
  | _ => first | exact .inl ⟨_, _, _, rfl⟩ | exact .inr (.inl ⟨_, rfl⟩)

/-- The sessions an instruction can lead to: more bytes fed to the session at hand (none of them for `complete`) or to one
that was just begun, or a served row that was decoded whole. -/
inductive Reaches (p : Profile) (t : Parameters) (x : Session) : Session → Prop where
  | fed (bs : List Byte) : Reaches p t x (feedAll p t bs x)
  | begun (a : Address) (b : Byte) (bs : List Byte) : Reaches p t x (feedAll p t bs ((Session.started a b).pass p t))
  | row (c : AsciiChar) (text : Text) (f : Form) (a : Address) : Reaches p t x (rowSession (c :: text) f a)

/-- From `s` to `s'` only the session and the reply were written, and the session is one that `s` reaches. -/
def Advances (s s' : State) : Prop :=
  ∃ x r, Reaches s.profile (parametersOf s.parameters) s.session x ∧ s' = { s with session := x, reply := r }

theorem runCommand_advances {c : Command} (h : runCommand c s = .next s') : Advances s s' := by
  obtain ⟨_, _, _, _, hc⟩ | ⟨a, b, _, _, hc⟩ | ⟨b, _, hc⟩ | ⟨_, hc⟩ := runCommand_cases c s
  · rw [hc] at h; cases h
  · rw [hc] at h; cases h; exact ⟨_, _, .begun a b [], rfl⟩
  · rw [hc] at h; cases h; exact ⟨_, _, .fed [b], rfl⟩
  · rw [hc] at h; cases h; exact ⟨_, _, .fed [], rfl⟩

theorem runRow_advances {c : AsciiChar} {text : Text} {f : Form} (h : runRow (c :: text) f s = .next s') :
    Advances s s' := by
  obtain ⟨_, hr⟩ | ⟨_, _, hr⟩ | ⟨hs, _, hr⟩ := runRow_cases (c :: text) f s
  · rw [hr] at h; cases h
  · rw [hr] at h; cases h; exact ⟨_, _, .row c text f s.feedAddress, rfl⟩
  · obtain ⟨hf, _⟩ | ⟨_, b, bs, r, _, hf⟩ := feedForm_cases f s
    · exact absurd hf hs
    · rw [hr, hf] at h; cases h; exact ⟨_, r, .begun s.feedAddress b bs, rfl⟩

theorem exec_advances {i : Instr} (h : exec i s = .next s') : Advances s s' := by
  obtain ⟨c, text, f, hi⟩ | ⟨f, hi⟩ | ⟨c, hi⟩ := exec_cases_text i s
  · exact runRow_advances (hi ▸ h)
  · obtain ⟨r, hf⟩ := feedPostbyte_next f s
    rw [hi, hf] at h; cases h; exact ⟨_, r, .fed (formBytes f), rfl⟩
  · exact runCommand_advances (hi ▸ h)

/-! ## Steps -/

/-- A step keeps the configuration, and leads to a session that the one before it reaches; an idle step to the same
session, by no bytes (R31, R32, R300). -/
theorem step_reaches (h : step s = .next s') :
    s'.profile = s.profile ∧ s'.parameters = s.parameters ∧
      Reaches s.profile (parametersOf s.parameters) s.session s'.session := by
  unfold step at h
  cases hf : fetch s with
  | none =>
    rw [hf] at h; cases h
    exact ⟨rfl, rfl, .fed []⟩
  | some next =>
    rw [hf] at h
    obtain ⟨hp, ht, hx, _⟩ := fetch_frame hf
    obtain ⟨x, r, hreach, rfl⟩ := exec_advances h
    rw [hp, ht, hx] at hreach
    exact ⟨hp, ht, hreach⟩

/-- Settles O8: `feed_fetched_le` for each byte of the list. -/
theorem continuesNeverPassEight : Obligations.ContinuesNeverPassEight := by
  intro bs s t hs h
  obtain ⟨r, hr⟩ := runCommands_feed bs s
  rw [hr] at h; cases h
  exact feedAll_keeps (P := fun x => x.bytesFetched ≤ maxBytes) (fun _ b => feed_fetched_le b) bs hs

/-- Settles O9. -/
theorem configurationNeverChanges : Obligations.ConfigurationNeverChanges := by
  intro s t h
  obtain ⟨hp, ht, _⟩ := step_reaches h
  exact ⟨hp, ht⟩

end Sys2Proof.Machine
end

