-- ==== Sys2Proof/Proofs/Resolvers.lean ====
section
/-! SUPPORT. How a resolver's answer depends on the bytes fed so far, for any tables (R113, R142, R163, R182, R242): it
reads no byte beyond them, comes no later than the length it gives, and stands under further bytes until that length. -/

namespace Sys2Proof.Machine

variable {p : Profile} {t : Parameters} {raw raw' : RawBytes} {n k : Nat} {mode : AddressingMode}

/-! ## No byte beyond those fed is read -/

theorem resolve6809_congr (hn : 1 ≤ n) (h : ∀ j < n, rawAt raw j = rawAt raw' j) :
    resolve6809 raw n = resolve6809 raw' n := by
  have hp : pageBytes raw = pageBytes raw' := by simp only [pageBytes, h 0 hn]
  simp only [resolve6809, hp]
  by_cases hop : n < pageBytes raw' + 1
  · simp only [hop, if_true]
  · rw [h (pageBytes raw') (by omega)]
    by_cases hpb : n < pageBytes raw' + 2
    · simp only [hpb, if_true]
    · rw [h (pageBytes raw' + 1) (by omega)]

theorem templateZ80_congr (table : Table) (hn : 1 ≤ n) (h : ∀ j < n, rawAt raw j = rawAt raw' j) :
    templateZ80 table raw n = templateZ80 table raw' n := by
  simp only [templateZ80, h 0 hn]
  by_cases h2 : n < 2
  · simp only [h2, if_true]
  · rw [h 1 (by omega)]
    by_cases h4 : n < 4
    · simp only [h4, if_true]
    · rw [h 3 (by omega)]

theorem resolve_congr (p : Profile) (t : Parameters) (hn : 1 ≤ n) (h : ∀ j < n, rawAt raw j = rawAt raw' j) :
    resolve p t raw n = resolve p t raw' n := by
  cases p with
  | p6502 | p65C02 => simp only [resolve, resolve6502, h 0 hn]
  | p6800 => simp only [resolve, resolve6800, h 0 hn]
  | p6809 | p6809E => exact resolve6809_congr hn h
  | pZ80 => simp only [resolve, resolveZ80, templateZ80_congr t.tZ80 hn h]

/-! ## When the answer comes -/

/-- The answers over a fixed buffer, by the bytes fetched: none below a threshold; from it on one mode and length, which
the threshold does not pass, or the `Invalid` mode whose length is the bytes at hand (R191). -/
inductive Answers (answer : Nat → Option (AddressingMode × Nat)) : Prop where
  | fixed (w : Nat) (mode : AddressingMode) (k : Nat) (hw : w ≤ k) (hk : 1 ≤ k)
      (h : ∀ n, answer n = if n < w then none else some (mode, k))
  | invalid (w : Nat) (h : ∀ n, answer n = if n < w then none else some (.invalid, n))

theorem answers_of_eq {answer : Nat → Option (AddressingMode × Nat)} (hk : 1 ≤ k)
    (h : ∀ n, answer n = some (mode, k)) : Answers answer :=
  .fixed 0 mode k (Nat.zero_le k) hk (by simpa using h)

theorem classify6502_length_pos (text : Text) : 1 ≤ (classify6502 text).2 := by
  unfold classify6502
  repeat' split
  all_goals decide

theorem length6800_pos (mode : AddressingMode) : 1 ≤ length6800 mode := by
  unfold length6800
  split <;> decide

theorem extra6809_indexed_pos (kind : IndexKind) (indirect : Bool) : 1 ≤ extra6809 (.m09Indexed kind indirect) := by
  change 1 ≤ indexExtra kind
  cases kind <;> decide

theorem postbyteMode_cases (pb : Byte) :
    postbyteMode pb = .invalid ∨ ∃ kind indirect, postbyteMode pb = .m09Indexed kind indirect := by
  unfold postbyteMode
  repeat' split
  all_goals simp

/-- A wait for some bytes and then for more of them is the longer wait. -/
theorem ite_lt_ite_lt {α : Type} {w w' : Nat} (h : w ≤ w') (n : Nat) (a : Option α) :
    (if n < w then none else if n < w' then none else a) = if n < w' then none else a := by
  by_cases hn : n < w
  · rw [if_pos hn, if_pos (Nat.lt_of_lt_of_le hn h)]
  · rw [if_neg hn]

theorem resolve6809_answers (raw : RawBytes) : Answers (resolve6809 raw) := by
  cases hbase : baseMode6809 (rawAt raw (pageBytes raw)) (pageBytes raw == 1) with
  | some mode =>
    exact .fixed (pageBytes raw + 1) mode (1 + pageBytes raw + extra6809 mode) (by omega) (by omega)
      fun n => by simp only [resolve6809, hbase]
  | none =>
    have hwait : pageBytes raw + 1 ≤ pageBytes raw + 2 := Nat.le_succ _
    obtain hpb | ⟨kind, indirect, hpb⟩ := postbyteMode_cases (rawAt raw (pageBytes raw + 1))
    · exact .invalid (pageBytes raw + 2) fun n => by simp only [resolve6809, hbase, hpb, ite_lt_ite_lt hwait]
    · have hpos := extra6809_indexed_pos kind indirect
      exact .fixed (pageBytes raw + 2) (.m09Indexed kind indirect)
        (1 + pageBytes raw + extra6809 (.m09Indexed kind indirect)) (by omega) (by omega)
        fun n => by simp only [resolve6809, hbase, hpb, ite_lt_ite_lt hwait]

/-- A Z80 template is there from one count of bytes on, its lead bytes; the template of the compound form has its four
bytes by then (R241, R251). -/
theorem templateZ80_threshold (table : Table) (raw : RawBytes) :
    ∃ w tp, w ≤ tp.lead ∧ 1 ≤ tp.lead ∧ tp.lead ≤ 4 ∧
      ∀ n, templateZ80 table raw n = if n < w then none else some tp := by
  by_cases hcb : rawAt raw 0 = 0xCB
  · exact ⟨2, ⟨cbTemplate (rawAt raw 1), 2, none⟩, by simp, by simp, by simp, fun n => by
      simp only [templateZ80, if_pos hcb]⟩
  by_cases hed : rawAt raw 0 = 0xED
  · exact ⟨2, ⟨edTemplate (rawAt raw 1), 2, none⟩, by simp, by simp, by simp, fun n => by
      simp only [templateZ80, if_neg hcb, if_pos hed]⟩
  by_cases hxy : rawAt raw 0 = 0xDD ∨ rawAt raw 0 = 0xFD
  · by_cases hxycb : rawAt raw 1 = 0xCB
    · refine ⟨4, ⟨rewriteHL (cbTemplate (rawAt raw 3)) (iregOf (rawAt raw 0)), 4, some 2⟩, by simp, by simp, by simp,
        fun n => ?_⟩
      simp only [templateZ80, if_neg hcb, if_neg hed, if_pos hxy, if_pos hxycb, ite_lt_ite_lt (show 2 ≤ 4 by decide)]
    · exact ⟨2, ⟨xyTemplate table (iregOf (rawAt raw 0)) (rawAt raw 1), 2, none⟩, by simp, by simp, by simp, fun n => by
        simp only [templateZ80, if_neg hcb, if_neg hed, if_pos hxy, if_neg hxycb]⟩
  · exact ⟨0, ⟨tableAt table (rawAt raw 0), 1, none⟩, by simp, by simp, by simp, fun n => by
      simp only [templateZ80, if_neg hcb, if_neg hed, if_neg hxy, Nat.not_lt_zero, if_false]⟩

theorem resolveZ80_answers (table : Table) (raw : RawBytes) : Answers (resolveZ80 table raw) := by
  obtain ⟨w, tp, hw, hpos, hle, h⟩ := templateZ80_threshold table raw
  refine .fixed w .mz80Template (if tp.dispAt.isSome then 4 else tp.lead + templateWidth tp.text) ?_ ?_ fun n => ?_
  · split <;> omega
  · split <;> omega
  · rw [resolveZ80, h n]
    split <;> rfl

theorem resolve_answers (p : Profile) (t : Parameters) (raw : RawBytes) : Answers (resolve p t raw) := by
  cases p with
  | p6502 | p65C02 => exact answers_of_eq (classify6502_length_pos _) fun _ => rfl
  | p6800 => exact answers_of_eq (length6800_pos _) fun _ => rfl
  | p6809 | p6809E => exact resolve6809_answers raw
  | pZ80 => exact resolveZ80_answers t.tZ80 raw

/-! ## What follows for a session in flight -/

theorem resolve_length_pos (hn : 1 ≤ n) (h : resolve p t raw n = some (mode, k)) : 1 ≤ k := by
  cases resolve_answers p t raw with
  | fixed w mode' k' hw hk ha =>
    rw [ha] at h
    split at h <;> cases h
    exact hk
  | invalid w ha =>
    rw [ha] at h
    split at h <;> cases h
    exact hn

/-- The first answer gives no length that has already been passed. -/
theorem le_length_of_first_answer (hdeclines : resolve p t raw n = none)
    (h : resolve p t raw (n + 1) = some (mode, k)) : n + 1 ≤ k := by
  cases resolve_answers p t raw with
  | fixed w mode' k' hw hk ha =>
    rw [ha] at h hdeclines
    split at hdeclines <;> split at h <;> cases h
    · omega
    · cases hdeclines
  | invalid w ha =>
    rw [ha] at h
    split at h <;> cases h
    exact le_rfl

/-- An answer stands until its length is reached (R113, R320). -/
theorem resolve_stands (h : resolve p t raw n = some (mode, k)) (hlt : n < k) :
    resolve p t raw (n + 1) = some (mode, k) := by
  cases resolve_answers p t raw with
  | fixed w mode' k' hw hk ha =>
    rw [ha] at h ⊢
    split at h <;> cases h
    rw [if_neg (by omega)]
  | invalid w ha =>
    rw [ha] at h
    split at h <;> cases h
    exact absurd hlt (lt_irrefl n)

end Sys2Proof.Machine
end

