-- ==== Sys2Proof/Proofs/Rendered.lean ====
section
/-! SUPPORT. A formatter that is given a string with a character in it never makes an empty text (R30 I2, R87 W1, R113). -/

namespace Sys2Proof.Machine

variable {text : Text} {p : Profile} {t : Parameters}

/-! ## Parts of a text -/

theorem hex2_ne_nil (v : Byte) : hex2 v ≠ [] := List.cons_ne_nil _ _

theorem hex4_ne_nil (v : BitVec 16) : hex4 v ≠ [] := List.cons_ne_nil _ _

theorem sdec_ne_nil (v : Int) : sdec v ≠ [] := by
  have hdec : decimal v.natAbs ≠ [] := by simp [decimal, Nat.toDigits_ne_nil]
  unfold sdec
  split <;> simp [hdec]

theorem pdec_ne_nil (v : Int) : pdec v ≠ [] := by
  unfold pdec
  split <;> simp [sdec_ne_nil]

theorem join_ne_nil (h : text ≠ []) (o : Text) : join text o ≠ [] := by
  unfold join
  split <;> simp [h]

theorem replaceFirst_ne_nil (h : text ≠ []) (m : Text) {r : Text} (hr : r ≠ []) : replaceFirst text m r ≠ [] := by
  cases text with
  | nil => exact absurd rfl h
  | cons c text =>
    unfold replaceFirst
    split <;> simp [hr]

theorem annotated_ne_nil {body : Text} (h : body ≠ []) (valid : Bool) (v : TargetAddress) :
    annotated body valid v ≠ [] := by
  unfold annotated
  split <;> simp [maxString, h]

/-! ## Formatters -/

theorem format6502_body_ne_nil (h : text ≠ []) (abs : Bool) (mode : AddressingMode) (raw : RawBytes) (a : Address)
    (n : Nat) : (format6502 abs text mode raw a n).body ≠ [] := by
  unfold format6502
  split
  case h_1 => exact h
  case h_2 => exact replaceFirst_ne_nil h _ (hex2_ne_nil _)
  case h_3 => exact replaceFirst_ne_nil h _ (hex4_ne_nil _)
  case h_4 => exact replaceFirst_ne_nil h _ (sdec_ne_nil _)
  case h_5 => exact List.cons_ne_nil _ _

theorem format6800_body_ne_nil (h : text ≠ []) (abs : Bool) (mode : AddressingMode) (raw : RawBytes) (a : Address) :
    (format6800 abs text mode raw a).body ≠ [] := by
  unfold format6800
  split
  case h_1 => exact h
  case h_8 => exact List.cons_ne_nil _ _
  all_goals simp [plain, join_ne_nil h]

theorem format6809_body_ne_nil (h : text ≠ []) (t : Parameters) (mode : AddressingMode) (raw : RawBytes) (a : Address)
    (n : Nat) : (format6809 t text mode raw a n).body ≠ [] := by
  unfold format6809
  split
  case h_11 => exact List.cons_ne_nil _ _
  all_goals simp [plain, join_ne_nil h]

theorem scanTemplate_ne_nil (h : text ≠ []) : scanTemplate text ≠ [] := by
  cases text with
  | nil => exact absurd rfl h
  | cons c text =>
    unfold scanTemplate scanFrom
    repeat' split
    all_goals exact List.cons_ne_nil _ _

theorem renderPieces_body_ne_nil (raw : RawBytes) (a : Address) (dispAt : Option Nat) (next : Nat) {ps : List Piece}
    (h : ps ≠ []) : (renderPieces raw a dispAt next ps).body ≠ [] := by
  match ps, h with
  | .lit c :: ps, _ => exact List.cons_ne_nil _ _
  | .word :: ps, _ => simp [renderPieces, hex4_ne_nil]
  | .byte :: ps, _ => simp [renderPieces, hex2_ne_nil]
  | .disp :: ps, _ => cases dispAt <;> simp [renderPieces, pdec_ne_nil]
  | .rel :: ps, _ => simp [renderPieces, sdec_ne_nil]

theorem formatTemplate_body_ne_nil {tp : Z80Template} (h : tp.text ≠ []) (abs : Bool) (raw : RawBytes) (a : Address) :
    (formatTemplate abs tp raw a).body ≠ [] := by
  have hbody := renderPieces_body_ne_nil raw a tp.dispAt tp.lead (scanTemplate_ne_nil h)
  unfold formatTemplate
  split <;> exact hbody

/-! ## Strings of well-formed tables -/

theorem tableAt_mem (table : Table) (op : Byte) : tableAt table op ∈ table.toList := by
  unfold tableAt Vector.get
  simp

theorem ne_nil_of_isEntry (h : isEntry text = true) : text ≠ [] := by
  rintro rfl
  cases h

theorem tableAt_ne_nil {table : Table} (h : ∀ entry ∈ table.toList, isEntry entry = true) (op : Byte) :
    tableAt table op ≠ [] :=
  ne_nil_of_isEntry (h _ (tableAt_mem table op))

/-- A key that the page table does not hold gives the string `?` (R210). -/
theorem lookup6809X_ne_nil {table : List (BitVec 16 × Text)} (h : ∀ entry ∈ table.map Prod.snd, isEntry entry = true)
    (key : BitVec 16) : lookup6809X table key ≠ [] := by
  unfold lookup6809X
  cases hl : table.lookup key with
  | none => exact List.cons_ne_nil _ _
  | some text =>
    obtain ⟨before, after, rfl, _⟩ := List.lookup_eq_some_iff.mp hl
    exact ne_nil_of_isEntry (h text (List.mem_map_of_mem (a := (key, text)) (by simp)))

theorem cbTemplate_ne_nil (op : Byte) : cbTemplate op ≠ [] := by
  unfold cbTemplate
  split <;> simp [ascii]

theorem edTemplate_ne_nil (op : Byte) : edTemplate op ≠ [] := by
  revert op
  decide +kernel

theorem iregName_ne_nil (r : IndexReg) : iregName r ≠ [] := by cases r <;> exact List.cons_ne_nil _ _

theorem rewriteHL_ne_nil (h : text ≠ []) (r : IndexReg) : rewriteHL text r ≠ [] := by
  cases text with
  | nil => exact absurd rfl h
  | cons c text =>
    unfold rewriteHL rewriteFrom
    repeat' split
    all_goals simp [iregName_ne_nil]

theorem xyTemplate_ne_nil {table : Table} (h : ∀ entry ∈ table.toList, isEntry entry = true) (r : IndexReg) (op : Byte) :
    xyTemplate table r op ≠ [] := by
  unfold xyTemplate
  split
  · simp [iregName_ne_nil]
  · exact rewriteHL_ne_nil (tableAt_ne_nil h op) r

theorem templateZ80_text_ne_nil {table : Table} (h : ∀ entry ∈ table.toList, isEntry entry = true) {raw : RawBytes}
    {n : Nat} {tp : Z80Template} (htp : templateZ80 table raw n = some tp) : tp.text ≠ [] := by
  unfold templateZ80 at htp
  simp only at htp
  repeat' split at htp
  all_goals cases htp
  · exact cbTemplate_ne_nil _
  · exact edTemplate_ne_nil _
  · exact rewriteHL_ne_nil (cbTemplate_ne_nil _) _
  · exact xyTemplate_ne_nil h _ _
  · exact tableAt_ne_nil h _

theorem mnemonic6809_ne_nil (h : ∀ entry ∈ profileEntries .p6809 t, isEntry entry = true) (raw : RawBytes) :
    mnemonic6809 t raw ≠ [] := by
  obtain ⟨hbase, hpaged⟩ := List.forall_mem_append.mp h
  unfold mnemonic6809
  split
  · exact tableAt_ne_nil hbase _
  · exact lookup6809X_ne_nil hpaged _

theorem format_body_ne_nil (h : ∀ entry ∈ profileEntries p t, isEntry entry = true) (x : Session) :
    (format p t x).body ≠ [] := by
  cases p with
  | p6502 | p65C02 => exact format6502_body_ne_nil (tableAt_ne_nil h _) _ _ _ _ _
  | p6800 => exact format6800_body_ne_nil (tableAt_ne_nil h _) _ _ _ _
  | p6809 | p6809E => exact format6809_body_ne_nil (mnemonic6809_ne_nil h _) _ _ _ _ _
  | pZ80 =>
    simp only [format, formatZ80]
    split
    case h_1 tp htp => exact formatTemplate_body_ne_nil (templateZ80_text_ne_nil h htp) _ _ _
    case h_2 => exact List.cons_ne_nil _ _

theorem rendering_body_ne_nil (h : ∀ entry ∈ profileEntries p t, isEntry entry = true) (x : Session) :
    (x.rendering p t).body ≠ [] := by
  unfold Session.rendering
  split
  · exact List.cons_ne_nil _ _
  · exact format_body_ne_nil h x

theorem rowTemplate_text (text : Text) (f : Form) : (rowTemplate text f).text = text := by
  unfold rowTemplate
  split <;> rfl

/-- A row with a string to run renders a text. -/
theorem rowOutput_body_ne_nil (h : text ≠ []) (f : Form) (a : Address) : (rowOutput text f a).body ≠ [] := by
  unfold rowOutput
  split
  · exact List.cons_ne_nil _ _
  · unfold rowRendering
    split
    case h_1 => exact format6502_body_ne_nil h _ _ _ _ _
    case h_2 => exact format6800_body_ne_nil h _ _ _ _
    case h_3 | h_4 | h_5 => exact format6809_body_ne_nil h _ _ _ _ _
    case h_6 => exact formatTemplate_body_ne_nil ((rowTemplate_text text f).symm ▸ h) _ _ _

end Sys2Proof.Machine
end

