-- ==== Sys2Proof/Proofs/Invariant.lean ====
section
/-! SUPPORT. Every step keeps the invariant of R30. A session that is about to run the pass is `Loaded`; the pass takes a
loaded session to one that meets the invariant, and `begin` and `continue` load it. -/

namespace Sys2Proof.Machine

variable {p : Profile} {t : Parameters} {x : Session} {s s' : State}

/-! ## The raw buffer -/

theorem rawAt_setIfInBounds_ne (raw : RawBytes) (b : Byte) {n k : Nat} (h : n ≠ k) :
    rawAt (raw.setIfInBounds n b) k = rawAt raw k := by
  simp [rawAt, Vector.getElem?_setIfInBounds_ne h]

theorem rawAt_of_le (raw : RawBytes) {k : Nat} (h : maxBytes ≤ k) : rawAt raw k = 0 := by
  simp [rawAt, h]

/-- A buffer that holds a list of bytes is zero behind them. -/
theorem rawAt_rawOf_of_le (bs : List Byte) {k : Nat} (h : bs.length ≤ k) : rawAt (rawOf bs) k = 0 := by
  have hk : bs.getD k 0 = 0 := List.getD_eq_default _ _ h
  match k with
  | 0 | 1 | 2 | 3 | 4 | 5 | 6 | 7 => exact hk
  | k + 8 => exact rawAt_of_le _ (by simp)

/-! ## Completion -/

/-- The bytes of a session: 1 to 8 of them, as many as its length asks for at most, and zeros behind them (I1, I3, I5). -/
structure BytesInv (x : Session) : Prop where
  pos : 1 ≤ x.bytesFetched
  le_eight : x.bytesFetched ≤ maxBytes
  le_required : 0 < x.bytesRequired → x.bytesFetched ≤ x.bytesRequired
  unfed_zero : ∀ k, x.bytesFetched ≤ k → rawAt x.rawBytes k = 0

/-- Completion with a text that is neither empty nor too long meets the invariant, whatever the resolver says. -/
theorem BytesInv.completeWith_inv (h : BytesInv x) {text : Text} (hne : text ≠ []) (hlen : text.length ≤ maxString) :
    SessionInv p t (x.completeWith text) where
  fetched_le_required := h.le_required
  complete_iff_output := iff_of_true rfl hne
  idle_empty := nofun
  busy_counts _ := ⟨h.pos, h.le_eight⟩
  fetching_short := nofun
  unfed_zero := h.unfed_zero
  target_complete _ := rfl
  output_fits := hlen
  unknown_declines := nofun
  known_stands := nofun

/-- So does the end of the pass, which stores a target and cuts the text to size. -/
theorem BytesInv.finish_inv (h : BytesInv x) {r : Rendering} (hne : r.body ≠ []) : SessionInv p t (x.finish r) := by
  have htarget : BytesInv (x.withTarget r.target) := by
    constructor
    · simpa using h.pos
    · simpa using h.le_eight
    · simpa using h.le_required
    · simpa using h.unfed_zero
  exact htarget.completeWith_inv (annotated_ne_nil hne _ _) (List.length_take_le _ _)

/-! ## The pass -/

/-- A session about to run the pass: in flight, its last byte just stored. The resolver gives its length if that is known;
otherwise the length it may answer now has not been passed. -/
structure Loaded (p : Profile) (t : Parameters) (x : Session) : Prop where
  bytes : BytesInv x
  fetching : x.state = .fetching
  no_output : x.outputString = []
  no_target : x.resolvedTargetValid = false
  first_answer : x.bytesRequired = 0 → ∀ mode k, resolve p t x.rawBytes x.bytesFetched = some (mode, k) →
    x.bytesFetched ≤ k
  known : x.bytesRequired ≠ 0 → resolve p t x.rawBytes x.bytesFetched = some (x.addressingMode, x.bytesRequired)

/-- A loaded session meets the invariant as it stands, unless its length is reached or about to be answered. -/
theorem Loaded.inv (h : Loaded p t x)
    (hshort : x.bytesRequired = 0 ∧ resolve p t x.rawBytes x.bytesFetched = none ∨ x.bytesFetched < x.bytesRequired) :
    SessionInv p t x where
  fetched_le_required := h.bytes.le_required
  complete_iff_output := iff_of_false (by simp [h.fetching]) (by simp [h.no_output])
  idle_empty hs := by simp [h.fetching] at hs
  busy_counts _ := ⟨h.bytes.pos, h.bytes.le_eight⟩
  fetching_short _ := hshort.imp_left And.left
  unfed_zero := h.bytes.unfed_zero
  target_complete hv := by simp [h.no_target] at hv
  output_fits := by simp [h.no_output]
  unknown_declines _ hr := by
    obtain ⟨_, hnone⟩ | hlt := hshort
    · exact hnone
    · omega
  known_stands _ := h.known

/-- With the length answered a loaded session stays loaded. -/
theorem Loaded.resolved {y : Session} (h : Loaded p t x) (hy : x.resolved p t = some y) :
    Loaded p t y ∧ y.bytesRequired ≠ 0 := by
  obtain ⟨hr, rfl⟩ | ⟨mode, k, hr, hk, rfl⟩ := resolved_cases hy
  · exact ⟨h, hr⟩
  · have hpos : k ≠ 0 := Nat.pos_iff_ne_zero.mp (resolve_length_pos h.bytes.pos hk)
    exact ⟨{ h with
      bytes := { h.bytes with le_required := fun _ => h.first_answer hr mode k hk }
      first_answer := fun h0 => absurd h0 hpos
      known := fun _ => hk }, hpos⟩

theorem Loaded.pass_inv (h : Loaded p t x) (hw : WellFormed p t) : SessionInv p t (x.pass p t) := by
  obtain ⟨hnone, hx⟩ | ⟨y, hy, hne, hx⟩ | ⟨y, hy, _, hx⟩ := pass_cases p t x
  · have hdeclines : x.bytesRequired = 0 ∧ resolve p t x.rawBytes x.bytesFetched = none := by
      unfold Session.resolved at hnone
      split at hnone
      · exact ⟨‹_›, Option.map_eq_none_iff.mp hnone⟩
      · cases hnone
    rw [hx]
    exact h.inv (.inl hdeclines)
  · obtain ⟨hl, hpos⟩ := h.resolved hy
    have hle := hl.bytes.le_required (Nat.pos_of_ne_zero hpos)
    rw [hx]
    exact hl.inv (.inr (Nat.lt_of_le_of_ne hle hne))
  · obtain ⟨hl, _⟩ := h.resolved hy
    rw [hx]
    exact hl.bytes.finish_inv (rendering_body_ne_nil hw.w1 y)

/-! ## Commands -/

theorem started_loaded (p : Profile) (t : Parameters) (a : Address) (b : Byte) : Loaded p t (Session.started a b) where
  bytes := {
    pos := le_rfl
    le_eight := by simp
    le_required := by simp
    unfed_zero := fun _ hk => rawAt_rawOf_of_le [b] hk }
  fetching := rfl
  no_output := rfl
  no_target := rfl
  first_answer _ _ _ hk := resolve_length_pos le_rfl hk
  known h := absurd rfl h

theorem append_loaded (b : Byte) (h : SessionInv p t x) (hs : x.state = .fetching) (hroom : x.bytesFetched ≠ maxBytes) :
    Loaded p t (x.append b) := by
  obtain ⟨hpos, hle⟩ := h.busy_counts (by simp [hs])
  have hagree : ∀ j < x.bytesFetched, rawAt x.rawBytes j = rawAt (x.append b).rawBytes j := fun j hj =>
    (rawAt_setIfInBounds_ne _ _ (by omega)).symm
  have hsame := resolve_congr p t hpos hagree
  have hshort := h.fetching_short hs
  constructor
  case bytes =>
    constructor
    case pos => simp
    case le_eight => simp only [append_fetched]; omega
    case le_required => simp only [append_fetched, append_required]; omega
    case unfed_zero =>
      intro k hk
      simp only [append_fetched] at hk
      rw [append_raw, rawAt_setIfInBounds_ne _ _ (by omega)]
      exact h.unfed_zero k (by omega)
  case fetching => exact hs
  case no_output =>
    by_contra hne
    have hc := h.complete_iff_output.mpr hne
    simp [hs] at hc
  case no_target =>
    by_contra hv
    have hc := h.target_complete (by simpa using hv)
    simp [hs] at hc
  case first_answer =>
    intro hr mode k hk
    exact le_length_of_first_answer (hsame ▸ h.unknown_declines hs hr) hk
  case known =>
    intro hr
    exact resolve_stands (hsame ▸ h.known_stands hs hr) (hshort.resolve_left hr)

theorem feed_inv (hw : WellFormed p t) (b : Byte) (h : SessionInv p t x) : SessionInv p t (x.feed p t b) := by
  obtain ⟨_, hx⟩ | ⟨hs, _, hx⟩ | ⟨hs, hroom, hx⟩ := feed_cases p t b x
  · rwa [hx]
  · obtain ⟨hpos, hle⟩ := h.busy_counts (by simp [hs])
    rw [hx]
    exact BytesInv.completeWith_inv ⟨hpos, hle, h.fetched_le_required, h.unfed_zero⟩ (List.cons_ne_nil _ _) (by decide)
  · rw [hx]
    exact (append_loaded b h hs hroom).pass_inv hw

/-! ## Rows -/

/-- A form has 1 to 8 bytes: four of lead and three of operand at most. -/
theorem formBytes_length_le (f : Form) : (formBytes f).length ≤ maxBytes := by
  have hlead : (leadBytes f.lead).length ≤ 4 := by cases f.lead <;> simp [leadBytes]
  have hword (big : Bool) (w : BitVec 16) : (wordBytes big w).length = 2 := by cases big <;> rfl
  have hoperand : (operandBytes (isBigEndian f.lead) f.operand).length ≤ 3 := by
    cases f.operand <;> simp [operandBytes, hword]
  simp only [formBytes, List.length_append, maxBytes]
  omega

theorem rowSession_inv (p : Profile) (t : Parameters) {text : Text} (h : text ≠ []) (f : Form) (a : Address) :
    SessionInv p t (rowSession text f a) := by
  have hbytes : BytesInv (rowFetched text f a) := {
    pos := List.length_pos_iff.mpr (formBytes_ne_nil f)
    le_eight := formBytes_length_le f
    le_required := fun _ => le_rfl
    unfed_zero := fun _ hk => rawAt_rawOf_of_le (formBytes f) hk }
  exact hbytes.finish_inv (rowOutput_body_ne_nil h f a)

/-! ## Steps -/

theorem Reaches.inv {y : Session} (hw : WellFormed p t) (hx : SessionInv p t x) (h : Reaches p t x y) :
    SessionInv p t y := by
  cases h with
  | fed bs => exact feedAll_keeps (fun _ b => feed_inv hw b) bs hx
  | begun a b bs => exact feedAll_keeps (fun _ b => feed_inv hw b) bs ((started_loaded p t a b).pass_inv hw)
  | row c text f a => exact rowSession_inv p t (List.cons_ne_nil c text) f a

/-- Settles O12: a step keeps the configuration, so the tables stay well-formed, and every session it reaches meets the
invariant of the same tables. -/
theorem stepKeepsTheInvariant : Obligations.StepKeepsTheInvariant := by
  rintro s s' ⟨hw, hs⟩ h
  obtain ⟨hp, ht, hreach⟩ := step_reaches h
  constructor <;> rw [hp, ht]
  · exact hw
  · exact hreach.inv hw hs

end Sys2Proof.Machine
end

