-- ==== Sys2Proof/Proofs/Address.lean ====
section
/-! SUPPORT. What the address of `begin` reaches (R22, R33, R54, R56): two runs of the same bytes at two addresses, side by
side. -/

namespace Sys2Proof.Machine

variable {p : Profile} {t : Parameters} {x y : Session}

/-! ## Formatters -/

/-- Two renderings that differ in the value of their target at most. -/
def Alike (r r' : Rendering) : Prop := r.body = r'.body ∧ r.target.isSome = r'.target.isSome

theorem format6502_alike (abs : Bool) (text : Text) (mode : AddressingMode) (raw : RawBytes) (a b : Address) (n : Nat) :
    Alike (format6502 abs text mode raw a n) (format6502 abs text mode raw b n) := by
  cases mode <;> exact ⟨rfl, rfl⟩

theorem format6800_alike (abs : Bool) (text : Text) (mode : AddressingMode) (raw : RawBytes) (a b : Address) :
    Alike (format6800 abs text mode raw a) (format6800 abs text mode raw b) := by
  cases mode <;> exact ⟨rfl, rfl⟩

theorem format6809_alike (t : Parameters) (text : Text) (mode : AddressingMode) (raw : RawBytes) (a b : Address) (n : Nat) :
    Alike (format6809 t text mode raw a n) (format6809 t text mode raw b n) := by
  cases mode with
  | m09Indexed kind _ => cases kind <;> exact ⟨rfl, rfl⟩
  | _ => exact ⟨rfl, rfl⟩

theorem renderPieces_alike (raw : RawBytes) (a b : Address) (dispAt : Option Nat) (next : Nat) (ps : List Piece) :
    Alike (renderPieces raw a dispAt next ps) (renderPieces raw b dispAt next ps) := by
  induction ps generalizing next with
  | nil => exact ⟨rfl, rfl⟩
  | cons piece ps ih =>
    cases piece with
    | lit c => exact ⟨congrArg (c :: ·) (ih next).1, (ih next).2⟩
    | word => exact ⟨congrArg (_ ++ ·) (ih (next + 2)).1, (ih (next + 2)).2⟩
    | byte => exact ⟨congrArg (_ ++ ·) (ih (next + 1)).1, (ih (next + 1)).2⟩
    | disp =>
      cases dispAt with
      | some k => exact ⟨congrArg (_ ++ ·) (ih next).1, (ih next).2⟩
      | none => exact ⟨congrArg (_ ++ ·) (ih (next + 1)).1, (ih (next + 1)).2⟩
    | rel => exact ⟨congrArg (_ ++ ·) (ih (next + 1)).1, rfl⟩

theorem formatZ80_alike (abs : Bool) (table : Table) (raw : RawBytes) (n : Nat) (a b : Address) :
    Alike (formatZ80 abs table raw n a) (formatZ80 abs table raw n b) := by
  unfold formatZ80
  split
  case h_1 tp _ =>
    have h := renderPieces_alike raw a b tp.dispAt tp.lead (scanTemplate tp.text)
    unfold formatTemplate
    split
    · exact ⟨h.1, rfl⟩
    · exact h
  case h_2 => exact ⟨rfl, rfl⟩

/-- The same session at another address. -/
def Session.atAddress (a : Address) (x : Session) : Session := { x with instructionAddress := a }

theorem rendering_atAddress (p : Profile) (t : Parameters) (a : Address) (x : Session) :
    Alike (x.rendering p t) ((x.atAddress a).rendering p t) := by
  unfold Session.rendering
  by_cases hmode : x.addressingMode = .invalid
  · rw [if_pos hmode, if_pos (c := (x.atAddress a).addressingMode = .invalid) hmode]
    exact ⟨rfl, rfl⟩
  · rw [if_neg hmode, if_neg (c := (x.atAddress a).addressingMode = .invalid) hmode]
    cases p with
    | p6502 | p65C02 => exact format6502_alike _ _ _ _ _ _ _
    | p6800 => exact format6800_alike _ _ _ _ _ _
    | p6809 | p6809E => exact format6809_alike _ _ _ _ _ _ _
    | pZ80 => exact formatZ80_alike _ _ _ _ _ _

/-! ## Two sessions -/

/-- Sessions of two runs of the same bytes at two addresses: without a target so far they differ in the address only, and
at the end of the pass in the value of the target as well. -/
inductive AddressTwins : Session → Session → Prop where
  | noTarget (a : Address) {x : Session} (hx : x.resolvedTargetValid = false) : AddressTwins x (x.atAddress a)
  | finished (a : Address) {x : Session} {r r' : Rendering} (hx : x.resolvedTargetValid = false) (hr : Alike r r') :
      AddressTwins (x.finish r) ((x.atAddress a).finish r')

theorem resolved_atAddress (p : Profile) (t : Parameters) (a : Address) (x : Session) :
    (x.atAddress a).resolved p t = (x.resolved p t).map (·.atAddress a) := by
  unfold Session.resolved
  by_cases h : x.bytesRequired = 0
  · rw [if_pos h, if_pos (c := (x.atAddress a).bytesRequired = 0) h, Option.map_map]
    rfl
  · rw [if_neg h, if_neg (c := (x.atAddress a).bytesRequired = 0) h]
    rfl

theorem pass_twins (a : Address) (hx : x.resolvedTargetValid = false) :
    AddressTwins (x.pass p t) ((x.atAddress a).pass p t) := by
  unfold Session.pass
  rw [resolved_atAddress]
  cases hr : x.resolved p t with
  | none => exact .noTarget a hx
  | some y =>
    have hy : y.resolvedTargetValid = false := by
      obtain ⟨_, rfl⟩ | ⟨_, _, _, _, rfl⟩ := resolved_cases hr <;> exact hx
    simp only [Option.map_some]
    by_cases hdone : y.bytesFetched = y.bytesRequired
    · rw [if_pos hdone, if_pos (c := (y.atAddress a).bytesFetched = (y.atAddress a).bytesRequired) hdone]
      exact .finished a hy (rendering_atAddress p t a y)
    · rw [if_neg hdone, if_neg (c := (y.atAddress a).bytesFetched = (y.atAddress a).bytesRequired) hdone]
      exact .noTarget a hy

theorem AddressTwins.state (h : AddressTwins x y) : x.state = y.state := by cases h <;> rfl

theorem feed_twins (b : Byte) (h : AddressTwins x y) : AddressTwins (x.feed p t b) (y.feed p t b) := by
  by_cases hs : x.state = .fetching
  · cases h with
    | finished => simp at hs
    | noTarget a hx =>
      have hs' : (x.atAddress a).state = .fetching := hs
      unfold Session.feed
      rw [if_neg (not_not.mpr hs), if_neg (not_not.mpr hs')]
      by_cases hfull : x.bytesFetched = maxBytes
      · rw [if_pos hfull, if_pos (c := (x.atAddress a).bytesFetched = maxBytes) hfull]
        exact .noTarget a (x := x.completeWith overflowText) hx
      · rw [if_neg hfull, if_neg (c := (x.atAddress a).bytesFetched = maxBytes) hfull]
        exact pass_twins a (x := x.append b) hx
  · rw [show x.feed p t b = x from if_pos hs, show y.feed p t b = y from if_pos (h.state ▸ hs)]
    exact h

/-! ## Two runs -/

/-- The same commands take two states that hold twins, and differ in nothing else, to two such states: a reply of
`continue` reads the `state` of the session only. -/
theorem runCommands_feed_twins (bs : List Byte) {s s' u : State} (h : AddressTwins s.session y)
    (hs : runCommands (bs.map .feed) s = .next s')
    (hu : runCommands (bs.map .feed) { s with session := y } = .next u) :
    ∃ z, u = { s' with session := z } ∧ AddressTwins s'.session z := by
  induction bs generalizing s y with
  | nil => cases hs; cases hu; exact ⟨y, rfl, h⟩
  | cons b bs ih =>
    have hfed := feed_twins (p := s.profile) (t := parametersOf s.parameters) b h
    simp only [List.map_cons, runCommands_cons, runCommand_feed] at hs hu
    have hreply : leftFetching y (y.feed s.profile (parametersOf s.parameters) b) =
        leftFetching s.session (s.session.feed s.profile (parametersOf s.parameters) b) := by
      simp only [leftFetching, h.state, hfed.state]
    rw [hreply] at hu
    exact ih hfed hs hu

/-- The end of the pass writes neither bytes nor counts nor mode, at any address. -/
theorem finish_atAddress (a : Address) (x : Session) (r r' : Rendering) :
    (x.finish r).rawBytes = ((x.atAddress a).finish r').rawBytes ∧
    (x.finish r).bytesFetched = ((x.atAddress a).finish r').bytesFetched ∧
    (x.finish r).bytesRequired = ((x.atAddress a).finish r').bytesRequired ∧
    (x.finish r).addressingMode = ((x.atAddress a).finish r').addressingMode := by
  simp [Session.atAddress]

/-- Without a target before the pass and in it, the output is the body alone (R113). -/
theorem finish_without_target (body : Text) (hx : x.resolvedTargetValid = false) :
    (x.finish ⟨body, none⟩).resolvedTargetValid = false ∧ (x.finish ⟨body, none⟩).outputString = body.take 28 := by
  simp [Session.finish, annotated, hx, maxString]

/-- With a target in the pass, the output is the body and the target's annotation (R113). -/
theorem finish_with_target (body : Text) (v : TargetAddress) (x : Session) :
    (x.finish ⟨body, some v⟩).outputString = (body ++ ascii " <" ++ hex4 v ++ ascii ">").take 28 := by
  simp [Session.finish, annotated, annotation, maxString]

/-- What twins have in common (R22, R56): all but the address and the target, and an output that is one body with the
annotation of each one's own target. -/
theorem AddressTwins.same (h : AddressTwins x y) :
    x.rawBytes = y.rawBytes ∧ x.bytesFetched = y.bytesFetched ∧ x.bytesRequired = y.bytesRequired ∧
    x.addressingMode = y.addressingMode ∧ x.resolvedTargetValid = y.resolvedTargetValid ∧
    (x.resolvedTargetValid = false → x.outputString = y.outputString) ∧
    (x.resolvedTargetValid = true → ∃ body : Text,
      x.outputString = (body ++ ascii " <" ++ hex4 x.resolvedTargetAddress ++ ascii ">").take 28 ∧
      y.outputString = (body ++ ascii " <" ++ hex4 y.resolvedTargetAddress ++ ascii ">").take 28) := by
  cases h with
  | noTarget a hx => exact ⟨rfl, rfl, rfl, rfl, rfl, fun _ => rfl, fun hv => by simp [hx] at hv⟩
  | @finished a x r r' hx hr =>
    obtain ⟨body, target⟩ := r
    obtain ⟨body', target'⟩ := r'
    obtain ⟨rfl, htarget⟩ := hr
    obtain ⟨hraw, hfetched, hrequired, hmode⟩ := finish_atAddress a x ⟨body, target⟩ ⟨body, target'⟩
    refine ⟨hraw, hfetched, hrequired, hmode, ?_⟩
    match target, target', htarget with
    | none, none, _ =>
      obtain ⟨hv, ho⟩ := finish_without_target body hx
      obtain ⟨hv', ho'⟩ := finish_without_target (x := x.atAddress a) body hx
      exact ⟨hv.trans hv'.symm, fun _ => ho.trans ho'.symm, fun h => by simp [hv] at h⟩
    | some v, some v', _ =>
      exact ⟨rfl, nofun, fun _ => ⟨body, finish_with_target body v x, finish_with_target body v' _⟩⟩

/-- Settles O19. -/
theorem addressOnlyReachesTheTarget : Obligations.AddressOnlyReachesTheTarget := by
  intro a b firstByte bs s t u ht hu
  rw [runCommands_cons] at ht hu
  by_cases hs : s.session.state = .fetching
  · simp [runCommand, hs] at ht
  · simp only [runCommand, if_neg hs] at ht hu
    obtain ⟨z, rfl, htwins⟩ := runCommands_feed_twins bs
      (pass_twins (p := s.profile) (t := parametersOf s.parameters) (x := Session.started a firstByte) b rfl) ht hu
    obtain ⟨hraw, hfetched, hrequired, hmode, hvalid, hplain, htarget⟩ := htwins.same
    exact ⟨htwins.state, hraw, hfetched, hrequired, hmode, hvalid, hplain, htarget, rfl⟩

end Sys2Proof.Machine
end

