-- ==== Sys2Proof/Proofs/Reset.lean ====
section
/-! SUPPORT. The reset state (R36), and well-formed tables of the 6502 from the conditions on their entries (R87). -/

namespace Sys2Proof.Machine

variable {text : Text} {t : Parameters}

/-! ## Lengths -/

theorem length_le_of_startsWith {s m : Text} (h : startsWith s m = true) : m.length ≤ s.length := by
  induction m generalizing s with
  | nil => exact Nat.zero_le _
  | cons b m ih =>
    cases s with
    | nil => cases h
    | cons a s =>
      simp only [startsWith, Bool.and_eq_true] at h
      exact Nat.succ_le_succ (ih h.2)

/-- A replacement no longer than the marker makes no text longer. -/
theorem replaceFirst_length_le (text : Text) {m r : Text} (h : r.length ≤ m.length) :
    (replaceFirst text m r).length ≤ text.length := by
  induction text with
  | nil =>
    unfold replaceFirst
    split
    case isTrue hm => exact List.isEmpty_iff.mp hm ▸ h
    case isFalse => exact le_rfl
  | cons a text ih =>
    unfold replaceFirst
    split
    case isTrue hm =>
      have hle := length_le_of_startsWith hm
      simp only [List.length_append, List.length_drop]
      omega
    case isFalse => exact Nat.succ_le_succ ih

theorem sdec_sext8_length_le (b : Byte) : (sdec (sext8 b)).length ≤ 4 := by
  revert b
  decide +kernel

@[simp] theorem annotation_length (v : TargetAddress) : (annotation v).length = 7 := rfl

/-- A rendering with the annotation of its target, before the cut (R113). -/
def Rendering.withAnnotation (r : Rendering) : Text :=
  match r.target with
  | none => r.body
  | some v => r.body ++ annotation v

theorem fullText_eq (p : Profile) (t : Parameters) (x : Session) : x.fullText p t = (x.rendering p t).withAnnotation := rfl

/-- The annotation adds seven characters, if there is a target. -/
theorem withAnnotation_length_le (r : Rendering) : r.withAnnotation.length ≤ r.body.length + 7 := by
  unfold Rendering.withAnnotation
  split <;> simp

/-! ## The 6502 -/

/-- A 6502 template that fits makes no text longer than 28 characters, annotation included (R87 W2). -/
theorem format6502_length_le (h : entryFits6502 text = true) (abs : Bool) (raw : RawBytes) (a : Address) (n : Nat) :
    (format6502 abs text (classify6502 text).1 raw a n).withAnnotation.length ≤ maxString := by
  simp only [entryFits6502, Bool.and_eq_true, decide_eq_true_eq] at h
  obtain ⟨_, hlen⟩ := h
  have htext : text.length ≤ maxString := hlen.trans (by split <;> decide)
  unfold classify6502
  split_ifs with hword hbyte hrel
  · have hbody := replaceFirst_length_le text (m := markerWord) (r := hex4 (le16 (rawAt raw 1) (rawAt raw 2))) le_rfl
    simp only [format6502]
    split
    case isTrue hjump =>
      have hnine : text.length = 9 := by
        simp only [Bool.and_eq_true, isAbsoluteJump65, Bool.or_eq_true, beq_iff_eq] at hjump
        obtain ⟨_, rfl | rfl⟩ := hjump <;> rfl
      refine (withAnnotation_length_le _).trans ?_
      simp only [maxString]
      omega
    case isFalse => exact hbody.trans htext
  · exact (replaceFirst_length_le text (m := markerByte) (r := hex2 (rawAt raw 1)) le_rfl).trans htext
  · have hbody := replaceFirst_length_le text (m := markerRel) (sdec_sext8_length_le (rawAt raw 1))
    rw [if_pos hrel] at hlen
    refine (withAnnotation_length_le _).trans ?_
    simp only [format6502, maxString]
    omega
  · exact htext

theorem classify6502_length_le (text : Text) : (classify6502 text).2 ≤ 3 := by
  unfold classify6502
  repeat' split
  all_goals decide

/-- The entry-wise conditions on a 6502 table give W1 to W3 (R87). -/
theorem wellFormed_p6502_of_entriesFit (h : entriesFit .p6502 t = true) : WellFormed .p6502 t := by
  have hfit (entry : Text) (he : entry ∈ t.t6502.toList) : entryFits6502 entry = true := List.all_eq_true.mp h entry he
  constructor
  case w1 =>
    intro entry he
    exact (Bool.and_eq_true_iff.mp (hfit entry he)).1
  case w2 =>
    intro a bs mode _ _ hresolve
    have hmode : (classify6502 (tableAt t.t6502 (rawAt (rawOf bs) 0))).1 = mode :=
      congrArg Prod.fst (Option.some.inj hresolve)
    rw [fullText_eq, Session.rendering]
    by_cases hinvalid : (Session.fetched a bs mode).addressingMode = .invalid
    · rw [if_pos hinvalid]
      decide
    · rw [if_neg hinvalid, ← hmode]
      exact format6502_length_le (hfit _ (tableAt_mem t.t6502 _)) t.absTarget (rawOf bs) a bs.length
  case w3 =>
    intro bs mode k _ _ hresolve
    have hk : (classify6502 (tableAt t.t6502 (rawAt (rawOf bs) 0))).2 = k := congrArg Prod.snd (Option.some.inj hresolve)
    exact hk ▸ (classify6502_length_le _).trans (by decide)

theorem entriesFit_p6502_reference : entriesFit .p6502 referenceParameters = true := by decide +kernel

/-! ## The reset state -/

theorem session_reset_inv (p : Profile) (t : Parameters) : SessionInv p t Session.reset where
  fetched_le_required := nofun
  complete_iff_output := iff_of_false nofun (by decide)
  idle_empty _ := rfl
  busy_counts h := absurd rfl h
  fetching_short := nofun
  unfed_zero k _ := rawAt_rawOf_of_le [] (Nat.zero_le k)
  target_complete := nofun
  output_fits := Nat.zero_le _
  unknown_declines := nofun
  known_stands := nofun

/-- Settles O1. -/
theorem resetSessionFields : Obligations.ResetSessionFields := by
  refine ⟨rfl, ?_⟩
  have hread : State.reset.session.read = [] := if_neg nofun
  rw [exec_cmdComplete, runCommand, hread]

/-- Settles O11. -/
theorem resetMeetsTheInvariant : Obligations.ResetMeetsTheInvariant :=
  ⟨wellFormed_p6502_of_entriesFit entriesFit_p6502_reference, session_reset_inv _ _⟩

end Sys2Proof.Machine
end

