-- ==== Sys2Proof/Proofs/Target.lean ====
section
/-! SUPPORT. The resolved target as a number (R57, decision D9). -/

namespace Sys2Proof.Machine

/-- Settles O18: a remainder modulo 65536 is not negative, so a 16-bit word holds it as it is. -/
theorem targetWrapsAtSixteenBits : Obligations.TargetWrapsAtSixteenBits := by
  intro address delta
  have hnonneg : 0 ≤ ((address.toNat : Int) + delta) % 65536 := Int.emod_nonneg _ (by decide)
  calc ((targetFrom address delta).toNat : Int)
    _ = ((((address.toNat : Int) + delta) % 65536).toNat : Int) := congrArg Nat.cast (BitVec.toNat_ofInt _)
    _ = ((address.toNat : Int) + delta) % 65536 := Int.toNat_of_nonneg hnonneg

end Sys2Proof.Machine
end

