-- ==== Sys2Proof/Proofs/Encoding.lean ====
section
/-! SUPPORT. Decoding read forwards (R71 to R79, R83, R86): the operand bytes of a form that fits its row are read as
that operand, and the lead bytes select the lead they were written for. -/

namespace Sys2Proof.Machine

/-! ## Operands -/

/-- The word of the two bytes of a word is that word (R10, R53). -/
theorem word_append (w : BitVec 16) : w.extractLsb' 8 8 ++ w.extractLsb' 0 8 = w := by
  rw [BitVec.extractLsb'_append_extractLsb'_eq_extractLsb' (by rfl)]
  exact BitVec.extractLsb'_eq_self

theorem wordBytes_eq_of_wordOf (big : Bool) (w : BitVec 16) :
    ∃ b0 b1, wordBytes big w = [b0, b1] ∧ wordOf big b0 b1 = w := by
  cases big
  · exact ⟨_, _, rfl, word_append w⟩
  · exact ⟨_, _, rfl, word_append w⟩

/-- The bytes of an operand of the shape asked for are read as that operand, and no byte more (R75, R80, R190). -/
theorem readOperand_operandBytes (big : Bool) {kind : OperandKind} {operand : Operand}
    (h : operandFits kind operand = true) (rest : List Byte) :
    readOperand big kind (operandBytes big operand ++ rest) = some (operand, rest) := by
  match kind, operand, h with
  | .none, .none, _ => rfl
  | .byte, .byte v, _ => rfl
  | .dispByte, .dispByte d v, _ => rfl
  | .word, .word w, _ =>
    obtain ⟨b0, b1, hbytes, hw⟩ := wordBytes_eq_of_wordOf big w
    simp [operandBytes, hbytes, readOperand, hw]
  | .indexed, .index pb, h => simp [operandBytes, readOperand, eq_of_beq h]
  | .indexed, .index8 pb v, h => simp [operandBytes, readOperand, eq_of_beq h]
  | .indexed, .index16 pb w, h =>
    obtain ⟨b0, b1, hbytes, hw⟩ := wordBytes_eq_of_wordOf big w
    simp [operandBytes, hbytes, readOperand, eq_of_beq h, hw]

/-! ## Forms -/

/-- Behind the lead of a form that fits its row, its operand is read. -/
theorem readForm_operandBytes {f : Form} (h : operandFits (leadKind f.lead) f.operand = true) (rest : List Byte) :
    readForm f.lead (operandBytes (isBigEndian f.lead) f.operand ++ rest) = .ok (f, rest) := by
  rw [readForm, readOperand_operandBytes _ h]

/-- The lead bytes of a lead that opens no other form select that lead in the profiles that read it (R71, R74, R181,
R241). -/
theorem decodeForm_leadBytes {p : Profile} {lead : Lead} (hopens : leadOpens lead = true)
    (hreads : profileReads p lead = true) (hpost : isPostbyte lead = false) (bs : List Byte) :
    decodeForm p (leadBytes lead ++ bs) = readForm lead bs := by
  match p, lead, hreads with
  | .p6502, .mos6502 .nmos _, _ | .p65C02, .mos6502 .cmos _, _ | .p6800, .m6800 _, _ | .pZ80, .cb _, _ | .pZ80, .ed _, _
  | .p6809, .paged .page2 _, _ | .p6809, .paged .page3 _, _ | .p6809E, .paged .page2 _, _ | .p6809E, .paged .page3 _, _
  | .pZ80, .xyCb .ix _ _, _ | .pZ80, .xyCb .iy _ _, _ => rfl
  | .p6809, .m6809 op, _ | .p6809E, .m6809 op, _ =>
    have hpage : ¬ (op = 0x10 ∨ op = 0x11) := by simpa [leadOpens, isPageByte] using hopens
    exact if_neg hpage
  | .pZ80, .z80 op, _ =>
    have hlead : ¬ isZ80LeadIn op = true := by simpa [leadOpens] using hopens
    exact if_neg hlead
  | .pZ80, .xy .ix op, _ | .pZ80, .xy .iy op, _ =>
    have hop : op ≠ 0xCB := by simpa [leadOpens] using hopens
    exact if_neg hop

/-- The bytes of a form that fits its row are read as that form (R83). -/
theorem decodeForm_formBytes {p : Profile} {f : Form} (hfits : formFits f = true)
    (hreads : profileReads p f.lead = true) (hpost : isPostbyte f.lead = false) (rest : List Byte) :
    decodeForm p (formBytes f ++ rest) = .ok (f, rest) := by
  obtain ⟨hopens, hoperand⟩ := Bool.and_eq_true_iff.mp hfits
  rw [formBytes, List.append_assoc, decodeForm_leadBytes hopens hreads hpost, readForm_operandBytes hoperand]

theorem decodePostbyte_of_readForm {pb : Byte} {bs rest : List Byte} {f : Form}
    (h : readForm (.postbyte pb) bs = .ok (f, rest)) : decodePostbyte (pb :: bs) = .ok (instrOf f, rest) := by
  simp [decodePostbyte, h]

theorem decodePostbyte_formBytes {f : Form} (hfits : formFits f = true) (hpost : isPostbyte f.lead = true)
    (rest : List Byte) : decodePostbyte (formBytes f ++ rest) = .ok (instrOf f, rest) := by
  obtain ⟨_, hoperand⟩ := Bool.and_eq_true_iff.mp hfits
  match f, hpost with
  | ⟨.postbyte pb, operand⟩, _ => exact decodePostbyte_of_readForm (readForm_operandBytes hoperand rest)

/-- Settles O22: a well-formed row is the instruction of its form, and the form is read back from its bytes. -/
theorem decodeOfEncode : Obligations.DecodeOfEncode := by
  intro i f p rest hw hf
  obtain ⟨rfl, hfits⟩ := wf_row hw hf
  rw [encode_instrOf]
  exact ⟨fun hpost hreads => decode_reference_of_decodeForm (decodeForm_formBytes hfits hreads hpost rest),
    fun hpost => decodePostbyte_formBytes hfits hpost rest⟩

/-- Settles O24: one word per family, each evaluated by the decoder as it stands. -/
theorem wordsDecode : Obligations.WordsDecode := ⟨rfl, rfl, rfl, rfl⟩

end Sys2Proof.Machine
end

