-- ==== Sys2Proof/Proofs/Lengths.lean ====
section
/-! SUPPORT. Instruction lengths (R83, R87 W3): with well-formed tables they lie between 1 and 8, and an answer comes by
the fourth byte. -/

namespace Sys2Proof.Machine

variable {p : Profile} {t : Parameters} {raw : RawBytes} {n k : Nat} {mode : AddressingMode}

/-- A buffer cut after `n` bytes holds the same bytes before them. -/
theorem rawAt_rawOf_take (raw : RawBytes) {j : Nat} (hj : j < n) :
    rawAt (rawOf (raw.toList.take n)) j = rawAt raw j := by
  have hget : (raw.toList.take n).getD j 0 = rawAt raw j := by
    simp [rawAt, List.getD_eq_getElem?_getD, hj]
  match j with
  | 0 | 1 | 2 | 3 | 4 | 5 | 6 | 7 => exact hget
  | j + 8 => rw [rawAt_of_le _ (by simp), rawAt_of_le _ (by simp)]

/-- With well-formed tables no answer on at most eight bytes gives a length above 8, whatever stands behind them
(W3). -/
theorem WellFormed.length_le (hw : WellFormed p t) (hn : 1 ≤ n) (hle : n ≤ maxBytes)
    (h : resolve p t raw n = some (mode, k)) : k ≤ maxBytes := by
  have hlen : (raw.toList.take n).length = n := by simpa using hle
  have hcut : resolve p t (rawOf (raw.toList.take n)) n = resolve p t raw n :=
    resolve_congr p t hn fun _ hj => rawAt_rawOf_take raw hj
  exact hw.w3 (raw.toList.take n) mode k (by omega) (by omega) (by rw [hlen, hcut, h])

/-! ## The fourth byte -/

theorem pageBytes_le_one (raw : RawBytes) : pageBytes raw ≤ 1 := by
  unfold pageBytes
  split <;> decide

/-- A page byte, an opcode and a postbyte are enough for the 6809 (R182). -/
theorem resolve6809_ne_none (hn : 3 ≤ n) : resolve6809 raw n ≠ none := by
  have hp := pageBytes_le_one raw
  unfold resolve6809
  simp only [if_neg (show ¬ n < pageBytes raw + 1 by omega), if_neg (show ¬ n < pageBytes raw + 2 by omega)]
  repeat' split
  all_goals exact Option.some_ne_none _

/-- The compound form of the Z80 is the one that waits for its fourth byte (R241, R251). -/
theorem resolveZ80_ne_none (table : Table) (hn : 4 ≤ n) : resolveZ80 table raw n ≠ none := by
  obtain ⟨w, tp, hw, _, hlead, h⟩ := templateZ80_threshold table raw
  simp [resolveZ80, h n, show ¬ n < w by omega]

theorem resolve_ne_none (p : Profile) (t : Parameters) (raw : RawBytes) (hn : 4 ≤ n) : resolve p t raw n ≠ none := by
  cases p with
  | p6502 | p65C02 | p6800 => exact Option.some_ne_none _
  | p6809 | p6809E => exact resolve6809_ne_none (by omega)
  | pZ80 => exact resolveZ80_ne_none t.tZ80 hn

/-- Settles O16. -/
theorem resolverAnswersWithinEight : Obligations.ResolverAnswersWithinEight := fun p t raw _ hw hn =>
  ⟨fun _ _ hle h => ⟨resolve_length_pos hn h, hw.length_le hn hle h⟩, resolve_ne_none p t raw⟩

end Sys2Proof.Machine
end

