-- ==== Sys2Proof/Proofs/Fits68.lean ====
section
/-! SUPPORT. Under the entry-wise conditions the texts of the 6800 and the 6809 fit, annotation included (R87 W2, R164
to R168, R210 to R228). -/

namespace Sys2Proof.Machine

variable {text : Text} {t : Parameters}

/-! ## Lengths of the parts of a text -/

@[simp] theorem ascii_length (s : String) : (ascii s).length = s.toList.length := List.length_map _

@[simp] theorem hex2_length (v : Byte) : (hex2 v).length = 2 := rfl

@[simp] theorem hex4_length (v : BitVec 16) : (hex4 v).length = 4 := rfl

theorem join_length_le (m o : Text) : (join m o).length ≤ m.length + 1 + o.length := by
  unfold join
  split
  · omega
  · simp only [List.length_append, ascii_length]
    exact le_rfl

/-- A decimal number below `10 ^ d` has at most `d` digits. -/
theorem decimal_length_le {n d : Nat} (hd : 1 ≤ d) (h : n < 10 ^ d) : (decimal n).length ≤ d := by
  simpa [decimal] using (Nat.length_toDigits_le_iff (by decide) (by omega)).mpr h

theorem sdec_length_le {v : Int} {d : Nat} (hd : 1 ≤ d) (h : v.natAbs < 10 ^ d) : (sdec v).length ≤ d + 1 := by
  have hdec := decimal_length_le hd h
  unfold sdec
  split
  · simp
    omega
  · omega

theorem sdec_sext16_length_le (v : BitVec 16) : (sdec (sext16 v)).length ≤ 6 := by
  have hlo := v.le_toInt
  have hhi := v.toInt_lt
  exact sdec_length_le (d := 5) (by decide) (by simp only [sext16]; omega)

theorem sdec_sext5_length_le (v : Byte) : (sdec (sext5 v)).length ≤ 3 := by
  revert v
  decide +kernel

theorem withAnnotation_plain (body : Text) : (plain body).withAnnotation = body := rfl

/-! ## The 6800 -/

/-- A mnemonic of at most eight characters makes no text longer than 28, in any mode. -/
theorem format6800_length_le (h : text.length ≤ 8) (abs : Bool) (mode : AddressingMode) (raw : RawBytes) (a : Address) :
    (format6800 abs text mode raw a).withAnnotation.length ≤ maxString := by
  refine (withAnnotation_length_le _).trans (Nat.add_le_add_right (m := 21) ?_ 7)
  have hoff := sdec_sext8_length_le (rawAt raw 1)
  unfold format6800
  split
  case h_1 => exact h.trans (by decide)
  case h_2 => exact (join_length_le _ _).trans (by omega)
  case h_8 => decide
  all_goals
    simp only [plain]
    refine (join_length_le _ _).trans ?_
    simp
    omega

/-! ## The 6809 -/

theorem indexRegName_length (pb : Byte) : (indexRegName pb).length = 1 := by
  unfold indexRegName
  split <;> rfl

theorem accumulatorName_length (pb : Byte) : (accumulatorName pb).length = 1 := by
  unfold accumulatorName
  split <;> rfl

theorem pairRegName_length_le (n : Nat) : (pairRegName n).length ≤ 3 := by
  by_cases hn : n < 12
  · revert n
    decide
  · rw [pairRegName, List.getD_eq_default _ _ (Nat.le_of_not_lt hn)]
    decide

/-- The opcode and the reading of U3 choose the other stack pointer, and nothing else of a register list. -/
theorem registerList_eq (swapped : Bool) (op pb : Byte) :
    registerList swapped op pb = registerList ((op == 0x36 || op == 0x37) != swapped) 0 pb := by
  have hname : listRegName swapped op = listRegName ((op == 0x36 || op == 0x37) != swapped) 0 := by
    funext b
    simp [listRegName]
  simp only [registerList, hname]

/-- All eight registers with their commas make twenty characters (R219). -/
theorem registerList_length_le (swapped : Bool) (op pb : Byte) : (registerList swapped op pb).length ≤ 20 := by
  rw [registerList_eq]
  generalize ((op == 0x36 || op == 0x37) != swapped) = other
  revert other pb
  decide +kernel

theorem bracketed_length_le (indirect : Bool) (inner : Text) :
    (bracketed indirect inner).length ≤ inner.length + 2 := by
  unfold bracketed
  split
  · simp
    omega
  · omega

/-- The longest operand with a target is a 16-bit offset to the program counter, in brackets (R226, R228). -/
theorem indexedOperand_length_le (fixed : Bool) (kind : IndexKind) (indirect : Bool) (raw : RawBytes) (i : Nat)
    (a : Address) (n : Nat) : (indexedOperand fixed kind indirect raw i a n).body.length ≤ 12 := by
  have hreg := indexRegName_length (rawAt raw i)
  have hacc := accumulatorName_length (rawAt raw i)
  have h5 := sdec_sext5_length_le (rawAt raw i)
  have h8 := sdec_sext8_length_le (rawAt raw (i + 1))
  have hconst := sdec_sext16_length_le (const16Operand fixed raw i)
  have hpcr := sdec_sext16_length_le (be16 (rawAt raw (i + 1)) (rawAt raw (i + 2)))
  cases kind with
  | extInd => simp [indexedOperand, plain]
  | _ =>
    refine (bracketed_length_le indirect _).trans ?_
    simp
    omega

/-- A mnemonic of at most seven characters makes no text longer than 28, in any mode; a full register list, which has no
target, takes them all. -/
theorem format6809_length_le (h : text.length ≤ 7) (t : Parameters) (mode : AddressingMode) (raw : RawBytes)
    (a : Address) (n : Nat) : (format6809 t text mode raw a n).withAnnotation.length ≤ maxString := by
  by_cases hlist : mode = .m09RegList
  · subst hlist
    have hregs := registerList_length_le t.pshBit6Swapped (rawAt raw (pageBytes raw)) (rawAt raw (pageBytes raw + 1))
    simp only [format6809, withAnnotation_plain]
    exact (join_length_le _ _).trans (by simp only [maxString]; omega)
  · refine (withAnnotation_length_le _).trans (Nat.add_le_add_right (m := 21) ?_ 7)
    have h8 := sdec_sext8_length_le (rawAt raw (pageBytes raw + 1))
    have h16 := sdec_sext16_length_le (be16 (rawAt raw (pageBytes raw + 1)) (rawAt raw (pageBytes raw + 1 + 1)))
    have hhigh := pairRegName_length_le (highNibble (rawAt raw (pageBytes raw + 1)))
    have hlow := pairRegName_length_le (lowNibble (rawAt raw (pageBytes raw + 1)))
    unfold format6809
    split
    case h_6 | h_7 => exact (join_length_le _ _).trans (by omega)
    case h_9 => exact absurd rfl hlist
    case h_10 kind indirect =>
      have hoperand := indexedOperand_length_le t.const16Fixed kind indirect raw (pageBytes raw + 1) a n
      exact (join_length_le _ _).trans (by omega)
    case h_11 => decide
    all_goals
      simp only [plain]
      refine (join_length_le _ _).trans ?_
      simp
      omega

/-- The mnemonic is an entry of the tables, or the string `?` of a key that the page table does not hold (R210). -/
theorem mnemonic6809_length_le (h : entriesFit .p6809 t = true) (raw : RawBytes) : (mnemonic6809 t raw).length ≤ 7 := by
  obtain ⟨hbase, hpaged⟩ := Bool.and_eq_true_iff.mp h
  have hlen {entry : Text} (he : entryFits6809 entry = true) : entry.length ≤ 7 :=
    of_decide_eq_true (Bool.and_eq_true_iff.mp he).2
  unfold mnemonic6809 lookup6809X
  split
  · exact hlen (List.all_eq_true.mp hbase _ (tableAt_mem _ _))
  · cases hl : t.t6809X.lookup (extendedKey raw) with
    | none => decide
    | some entry =>
      obtain ⟨before, after, heq, _⟩ := List.lookup_eq_some_iff.mp hl
      exact hlen (List.all_eq_true.mp hpaged (extendedKey raw, entry) (by simp [heq]))

end Sys2Proof.Machine
end

