-- ==== Sys2Proof/Proofs/FitsZ80.lean ====
section
/-! SUPPORT. Under the entry-wise conditions the texts of the Z80 fit, annotation included (R87 W2): a rendered
placeholder is no longer than its spelling, and `DD` or `FD` adds four characters for each `(HL)` and no relative
placeholder (R247 to R251, R265 to R269). -/

namespace Sys2Proof.Machine

variable {text : Text} {table : Table}

/-! ## Scanning -/

/-- How many characters of a template a piece takes (R73, R249). -/
def pieceLength : Piece → Nat
  | .lit _ => 1
  | .word => 5
  | .byte => 3
  | .disp | .rel => 4

/-- The pieces of a template are its characters, `skip` of them passed already. -/
theorem scanFrom_length (skip : Nat) (h : skip ≤ text.length) :
    ((scanFrom skip text).map pieceLength).sum + skip = text.length := by
  induction text generalizing skip with
  | nil => simpa [scanFrom] using h
  | cons c text ih =>
    match skip with
    | skip + 1 => exact congrArg Nat.succ (ih skip (Nat.le_of_succ_le_succ h))
    | 0 =>
      have hplaceholder (piece : Piece) {m : Text} (hm : startsWith (c :: text) m = true) {k : Nat}
          (hk : m.length = k + 1) (hpiece : pieceLength piece = k + 1) :
          ((piece :: scanFrom k text).map pieceLength).sum + 0 = (c :: text).length := by
        have hle := length_le_of_startsWith hm
        have hrest := ih k (by simp only [List.length_cons] at hle; omega)
        simp only [List.map_cons, List.sum_cons, List.length_cons]
        omega
      unfold scanFrom
      split_ifs with hword hbyte hdisp hrel
      · exact hplaceholder .word hword rfl rfl
      · exact hplaceholder .byte hbyte rfl rfl
      · exact hplaceholder .disp hdisp rfl rfl
      · exact hplaceholder .rel hrel rfl rfl
      · exact hplaceholder (.lit c) (m := [c]) (by simp [startsWith]) rfl rfl

theorem scanTemplate_length (text : Text) : ((scanTemplate text).map pieceLength).sum = text.length :=
  scanFrom_length 0 (Nat.zero_le _)

/-- No placeholder takes more than two bytes for five characters. -/
theorem templateWidth_le (text : Text) : 5 * templateWidth text ≤ 2 * text.length := by
  rw [← scanTemplate_length text, templateWidth]
  induction scanTemplate text with
  | nil => exact le_rfl
  | cons piece ps ih =>
    have hpiece : 5 * pieceWidth piece ≤ 2 * pieceLength piece := by cases piece <;> simp [pieceWidth, pieceLength]
    simp only [List.map_cons, List.sum_cons]
    omega

/-! ## Rendering -/

theorem pdec_sext8_length_le (b : Byte) : (pdec (sext8 b)).length ≤ 4 := by
  revert b
  decide +kernel

/-- A relative operand is shown from the end of its instruction, so it lies between -126 and 129 (R268). -/
theorem sdec_sext8_add_two_length_le (b : Byte) : (sdec (sext8 b + 2)).length ≤ 4 := by
  revert b
  decide +kernel

/-- No piece is rendered longer than it is spelled. -/
theorem renderPieces_length_le (raw : RawBytes) (a : Address) (dispAt : Option Nat) (next : Nat) (ps : List Piece) :
    (renderPieces raw a dispAt next ps).body.length ≤ (ps.map pieceLength).sum := by
  induction ps generalizing next with
  | nil => exact le_rfl
  | cons piece ps ih =>
    simp only [List.map_cons, List.sum_cons]
    cases piece with
    | lit c =>
      have hrest := ih next
      simp [renderPieces, pieceLength]
      omega
    | word =>
      have hrest := ih (next + 2)
      simp [renderPieces, pieceLength]
      omega
    | byte =>
      have hrest := ih (next + 1)
      simp [renderPieces, pieceLength]
      omega
    | disp =>
      have hdisp (k : Nat) := pdec_sext8_length_le (rawAt raw k)
      cases dispAt <;> exact (List.length_append).trans_le (Nat.add_le_add (hdisp _) (ih _))
    | rel => exact (List.length_append).trans_le (Nat.add_le_add (sdec_sext8_add_two_length_le _) (ih _))

/-- A template without a relative placeholder has no relative piece, whatever of a placeholder is still to pass. -/
theorem not_rel_mem_scanFrom (skip : Nat) (h : contains text placeholderRel = false) : .rel ∉ scanFrom skip text := by
  induction text generalizing skip with
  | nil => simp [scanFrom]
  | cons c text ih =>
    obtain ⟨hhere, hrest⟩ := Bool.or_eq_false_iff.mp h
    match skip with
    | skip + 1 => exact ih skip hrest
    | 0 =>
      unfold scanFrom
      rw [if_neg (Bool.eq_false_iff.mp hhere)]
      split_ifs <;> simp [ih _ hrest]

/-- Without a relative piece the pieces set no target. -/
theorem renderPieces_target_none (raw : RawBytes) (a : Address) (dispAt : Option Nat) (next : Nat) {ps : List Piece}
    (h : .rel ∉ ps) : (renderPieces raw a dispAt next ps).target = none := by
  induction ps generalizing next with
  | nil => rfl
  | cons piece ps ih =>
    obtain ⟨hpiece, hrest⟩ := not_or.mp (mt List.mem_cons.mpr h)
    cases piece with
    | lit c | word | byte => exact ih _ hrest
    | disp => cases dispAt <;> exact ih _ hrest
    | rel => exact absurd rfl hpiece

/-- The length condition on a whole template: room for its text, and for the annotation where it can set a target. -/
def TemplateFits (absTarget : Bool) (text : Text) : Prop :=
  text.length + (if contains text placeholderRel || absTarget then 7 else 0) ≤ maxString

/-- Any template of at most 21 characters fits. -/
theorem templateFits_of_length_le (absTarget : Bool) (h : text.length ≤ 21) : TemplateFits absTarget text := by
  unfold TemplateFits
  simp only [maxString]
  split <;> omega

theorem formatTemplate_length_le {absTarget : Bool} {tp : Z80Template} (h : TemplateFits absTarget tp.text)
    (raw : RawBytes) (a : Address) : (formatTemplate absTarget tp raw a).withAnnotation.length ≤ maxString := by
  have hbody : (formatTemplate absTarget tp raw a).body.length ≤ tp.text.length := by
    have hr := renderPieces_length_le raw a tp.dispAt tp.lead (scanTemplate tp.text)
    rw [scanTemplate_length] at hr
    unfold formatTemplate
    split <;> exact hr
  unfold TemplateFits at h
  split at h
  case isTrue => exact (withAnnotation_length_le _).trans (by omega)
  case isFalse hno =>
    obtain ⟨hrel, rfl⟩ : contains tp.text placeholderRel = false ∧ absTarget = false := by simpa using hno
    have htarget : (formatTemplate false tp raw a).target = none :=
      renderPieces_target_none raw a tp.dispAt tp.lead (not_rel_mem_scanFrom 0 hrel)
    simp only [Rendering.withAnnotation, htarget]
    omega

/-! ## The rewrite -/

@[simp] theorem iregName_length (r : IndexReg) : (iregName r).length = 2 := by cases r <;> rfl

theorem memoryRefs_le_append (before t : Text) : memoryRefs t ≤ memoryRefs (before ++ t) := by
  induction before with
  | nil => exact le_rfl
  | cons c before ih => exact ih.trans (Nat.le_add_right _ _)

theorem startsWith_append {s m m' : Text} (h : startsWith s m = true) (h' : startsWith (s.drop m.length) m' = true) :
    startsWith s (m ++ m') = true := by
  induction m generalizing s with
  | nil => exact h'
  | cons b m ih =>
    cases s with
    | nil => cases h
    | cons a s =>
      obtain ⟨hhead, htail⟩ := Bool.and_eq_true_iff.mp h
      exact Bool.and_eq_true_iff.mpr ⟨hhead, ih htail h'⟩

/-- `HL` between its parentheses is a memory reference. -/
theorem startsWith_memoryRef {c : AsciiChar} (hHL : startsWith (c :: text) (ascii "HL") = true)
    (hclose : startsWith (text.drop 1) (ascii ")") = true) :
    startsWith (asciiChar '(' :: c :: text) (ascii "(HL)") = true :=
  Bool.and_eq_true_iff.mpr ⟨beq_self_eq_true _, startsWith_append hHL hclose⟩

/-- The rewrite adds four characters for each `(HL)` at most; `prev` is the character before the scan position. -/
theorem rewriteFrom_length_le (r : IndexReg) (jump : Bool) (prev : Option AsciiChar) (skip : Nat)
    (h : skip ≤ text.length) :
    (rewriteFrom (iregName r) jump prev skip text).length + skip ≤
      text.length + 4 * memoryRefs (prev.toList ++ text) := by
  induction text generalizing prev skip with
  | nil => simpa [rewriteFrom] using Nat.le_add_right_of_le h
  | cons c text ih =>
    have hmono : memoryRefs (c :: text) ≤ memoryRefs (prev.toList ++ c :: text) := memoryRefs_le_append _ _
    match skip with
    | skip + 1 =>
      have hrest := ih (some c) skip (Nat.le_of_succ_le_succ h)
      simp only [rewriteFrom, List.length_cons, Option.toList_some, List.singleton_append] at hrest ⊢
      omega
    | 0 =>
      unfold rewriteFrom
      split_ifs with hHL href
      · obtain ⟨rfl, hclose, _⟩ := href
        have hlen : 2 ≤ (c :: text).length := length_le_of_startsWith hHL
        have hrest := ih (some c) 1 (by simpa using hlen)
        have hcount : memoryRefs (asciiChar '(' :: c :: text) = memoryRefs (c :: text) + 1 := by
          rw [memoryRefs, if_pos (startsWith_memoryRef hHL hclose)]
        simp [placeholderDisp] at hrest ⊢
        omega
      · have hlen : 2 ≤ (c :: text).length := length_le_of_startsWith hHL
        have hrest := ih (some c) 1 (by simpa using hlen)
        simp at hrest hmono ⊢
        omega
      · have hrest := ih (some c) 0 (Nat.zero_le _)
        simp at hrest hmono ⊢
        omega

/-! The rewrite leaves no relative placeholder that was not there: what it inserts has no `r` in it. -/

/-- What begins with letters `r` after the rewrite began with them before. -/
theorem startsWith_of_rewriteFrom (r : IndexReg) (jump : Bool) (prev : Option AsciiChar) (k : Nat)
    (h : startsWith (rewriteFrom (iregName r) jump prev 0 text) (List.replicate k (asciiChar 'r')) = true) :
    startsWith text (List.replicate k (asciiChar 'r')) = true := by
  induction text generalizing prev k with
  | nil => simpa [rewriteFrom] using h
  | cons c text ih =>
    match k with
    | 0 => rfl
    | k + 1 =>
      unfold rewriteFrom at h
      split at h
      · cases r <;> split at h <;> simp [iregName, ascii, startsWith, List.replicate, asciiChar] at h
      · obtain ⟨hc, hrest⟩ := Bool.and_eq_true_iff.mp h
        exact Bool.and_eq_true_iff.mpr ⟨hc, ih (some c) k hrest⟩

/-- A text that begins with `r` is not found across characters other than `r`. -/
theorem contains_append_of_ne {before after : Text} (hb : asciiChar 'r' ∉ before) (m : Text) :
    contains (before ++ after) (asciiChar 'r' :: m) = contains after (asciiChar 'r' :: m) := by
  induction before with
  | nil => rfl
  | cons c before ih =>
    obtain ⟨hc, hrest⟩ := not_or.mp (mt List.mem_cons.mpr hb)
    have hne : (c == asciiChar 'r') = false := beq_false_of_ne fun h => hc h.symm
    rw [List.cons_append, contains, startsWith, hne, ih hrest]
    rfl

theorem placeholderRel_eq : placeholderRel = asciiChar 'r' :: List.replicate 3 (asciiChar 'r') := rfl

theorem contains_of_rewriteFrom (r : IndexReg) (jump : Bool) (prev : Option AsciiChar) (skip : Nat)
    (h : contains (rewriteFrom (iregName r) jump prev skip text) placeholderRel = true) :
    contains text placeholderRel = true := by
  induction text generalizing prev skip with
  | nil => cases skip <;> exact h
  | cons c text ih =>
    have hlater (h : contains text placeholderRel = true) : contains (c :: text) placeholderRel = true :=
      Bool.or_eq_true_iff.mpr (.inr h)
    match skip with
    | skip + 1 => exact hlater (ih (some c) skip h)
    | 0 =>
      by_cases hHL : startsWith (c :: text) (ascii "HL") = true
      · rw [rewriteFrom, if_pos hHL, placeholderRel_eq, contains_append_of_ne] at h
        · exact hlater (ih (some c) 1 h)
        · cases r <;> split <;> decide
      · have hcopied : rewriteFrom (iregName r) jump prev 0 (c :: text) =
            c :: rewriteFrom (iregName r) jump (some c) 0 text := if_neg hHL
        rw [hcopied] at h
        obtain hhere | hrest := Bool.or_eq_true_iff.mp h
        · rw [← hcopied] at hhere
          exact Bool.or_eq_true_iff.mpr (.inl (startsWith_of_rewriteFrom r jump prev 4 hhere))
        · exact hlater (ih (some c) 0 hrest)

theorem contains_of_rewriteHL {r : IndexReg} (h : contains (rewriteHL text r) placeholderRel = true) :
    contains text placeholderRel = true :=
  contains_of_rewriteFrom r _ none 0 h

theorem rewriteHL_length_le (text : Text) (r : IndexReg) :
    (rewriteHL text r).length ≤ text.length + 4 * memoryRefs text :=
  rewriteFrom_length_le r _ none 0 (Nat.zero_le _)

/-! ## Templates -/

/-- Any template of at most fifteen characters behind two lead bytes fits, with a length of 8 at most. -/
theorem templateFits_of_short (absTarget : Bool) (h : text.length ≤ 15) :
    TemplateFits absTarget text ∧ 2 + templateWidth text ≤ maxBytes := by
  have hwidth := templateWidth_le text
  refine ⟨templateFits_of_length_le absTarget (h.trans (by decide)), ?_⟩
  simp only [maxBytes]
  omega

theorem cbTemplate_bounds (op : Byte) : (cbTemplate op).length ≤ 10 ∧ memoryRefs (cbTemplate op) ≤ 1 := by
  revert op
  decide +kernel

theorem edTemplate_length_le (op : Byte) : (edTemplate op).length ≤ 15 := by
  revert op
  decide +kernel

/-- The `ADD` group behind `DD` or `FD` (R248). -/
theorem addTemplate_length_le (r : IndexReg) (k : Nat) :
    (ascii "ADD " ++ iregName r ++ ascii "," ++ rrxName r k).length ≤ 15 := by
  have hrr : (rrxName r k).length ≤ 2 := by
    unfold rrxName rrName
    split
    · exact (iregName_length r).le
    · match k with
      | 0 | 1 | 2 | 3 | k + 4 => simp
  simp
  omega

/-- What `entryFitsZ80` says of an entry, condition by condition (R87, log entry 11). -/
theorem entryFitsZ80_iff {absTarget : Bool} : entryFitsZ80 absTarget text = true ↔
    isEntry text = true ∧
    text.length + 4 * memoryRefs text + (if contains text placeholderRel || absTarget then 7 else 0) ≤ maxString ∧
    1 + templateWidth text ≤ maxBytes ∧ ∀ r, 2 + templateWidth (rewriteHL text r) ≤ maxBytes := by
  have hboth (P : IndexReg → Prop) : (∀ r, P r) ↔ P .ix ∧ P .iy :=
    ⟨fun h => ⟨h .ix, h .iy⟩, fun h r => by cases r; exacts [h.1, h.2]⟩
  simp only [entryFitsZ80, Bool.and_eq_true, decide_eq_true_eq, hboth, and_assoc]

/-- The five kinds of template, with their lead lengths (R241). -/
theorem templateZ80_cases {raw : RawBytes} {n : Nat} {tp : Z80Template} (h : templateZ80 table raw n = some tp) :
    (∃ op, tp = ⟨cbTemplate op, 2, none⟩) ∨ (∃ op, tp = ⟨edTemplate op, 2, none⟩) ∨
    (∃ r op, tp = ⟨rewriteHL (cbTemplate op) r, 4, some 2⟩) ∨ (∃ r op, tp = ⟨xyTemplate table r op, 2, none⟩) ∨
    (∃ op, tp = ⟨tableAt table op, 1, none⟩) := by
  unfold templateZ80 at h
  simp only at h
  repeat' split at h
  all_goals cases h
  · exact .inl ⟨_, rfl⟩
  · exact .inr (.inl ⟨_, rfl⟩)
  · exact .inr (.inr (.inl ⟨_, _, rfl⟩))
  · exact .inr (.inr (.inr (.inl ⟨_, _, rfl⟩)))
  · exact .inr (.inr (.inr (.inr ⟨_, rfl⟩)))

theorem xyTemplate_fits {absTarget : Bool} {op : Byte} (h : entryFitsZ80 absTarget (tableAt table op) = true)
    (r : IndexReg) :
    TemplateFits absTarget (xyTemplate table r op) ∧ 2 + templateWidth (xyTemplate table r op) ≤ maxBytes := by
  obtain ⟨_, hlen, _, hwidth⟩ := entryFitsZ80_iff.mp h
  unfold xyTemplate
  split
  · exact templateFits_of_short absTarget (addTemplate_length_le r _)
  · refine ⟨?_, hwidth r⟩
    have hrewrite := rewriteHL_length_le (tableAt table op) r
    unfold TemplateFits
    split
    case isTrue hroom =>
      have hroom' : (contains (tableAt table op) placeholderRel || absTarget) = true :=
        Bool.or_eq_true_iff.mpr ((Bool.or_eq_true_iff.mp hroom).imp_left contains_of_rewriteHL)
      rw [if_pos hroom'] at hlen
      omega
    case isFalse => omega

/-- The length of the instruction that a template is for (R250, R251). -/
def templateLength (tp : Z80Template) : Nat := if tp.dispAt.isSome then 4 else tp.lead + templateWidth tp.text

theorem resolveZ80_of_template {raw : RawBytes} {n : Nat} {tp : Z80Template} (h : templateZ80 table raw n = some tp) :
    resolveZ80 table raw n = some (.mz80Template, templateLength tp) := by
  rw [resolveZ80, h, Option.map_some, templateLength]

/-- Every template that the tables and the fixed constructions give fits, with a length of 8 at most. -/
theorem templateZ80_fits {absTarget : Bool} (h : ∀ op, entryFitsZ80 absTarget (tableAt table op) = true)
    {raw : RawBytes} {n : Nat} {tp : Z80Template} (htp : templateZ80 table raw n = some tp) :
    TemplateFits absTarget tp.text ∧ templateLength tp ≤ maxBytes := by
  obtain ⟨op, rfl⟩ | ⟨op, rfl⟩ | ⟨r, op, rfl⟩ | ⟨r, op, rfl⟩ | ⟨op, rfl⟩ := templateZ80_cases htp
  · exact templateFits_of_short absTarget ((cbTemplate_bounds op).1.trans (by decide))
  · exact templateFits_of_short absTarget (edTemplate_length_le op)
  · obtain ⟨hlen, hrefs⟩ := cbTemplate_bounds op
    have hrewrite := rewriteHL_length_le (cbTemplate op) r
    exact ⟨templateFits_of_length_le _ (by simp only; omega), show 4 ≤ 8 by decide⟩
  · exact xyTemplate_fits (h op) r
  · obtain ⟨_, hlen, hwidth, _⟩ := entryFitsZ80_iff.mp (h op)
    exact ⟨(Nat.add_le_add_right (Nat.le_add_right _ _) _).trans hlen, hwidth⟩

end Sys2Proof.Machine
end

