-- ==== Sys2Proof/Proofs/EntryConditions.lean ====
section
/-! SUPPORT. The entry-wise conditions of R87 give W1 to W3, for every profile, and the reference tables meet them. -/

namespace Sys2Proof.Machine

variable {p : Profile} {t : Parameters} {raw : RawBytes} {n k : Nat} {mode : AddressingMode}

/-! ## W1 -/

theorem isEntry_of_entriesFit (h : entriesFit p t = true) : ∀ entry ∈ profileEntries p t, isEntry entry = true := by
  have hall {ok : Text → Bool} {entries : List Text} (hok : ∀ entry, ok entry = true → isEntry entry = true)
      (hfit : entries.all ok = true) : ∀ entry ∈ entries, isEntry entry = true :=
    fun entry he => hok entry (List.all_eq_true.mp hfit entry he)
  have h6809 (entry : Text) (he : entryFits6809 entry = true) : isEntry entry = true := (Bool.and_eq_true_iff.mp he).1
  cases p with
  | p6502 | p65C02 | p6800 => exact hall (fun _ he => (Bool.and_eq_true_iff.mp he).1) h
  | p6809 | p6809E =>
    obtain ⟨hbase, hpaged⟩ := Bool.and_eq_true_iff.mp h
    exact List.forall_mem_append.mpr ⟨hall h6809 hbase, hall h6809 (by rwa [List.all_map])⟩
  | pZ80 => exact hall (fun _ he => (entryFitsZ80_iff.mp he).1) h

/-! ## W3 -/

theorem length6800_le (mode : AddressingMode) : length6800 mode ≤ 3 := by
  unfold length6800
  split <;> decide

theorem extra6809_le (mode : AddressingMode) : extra6809 mode ≤ 3 := by
  cases mode with
  | m09Indexed kind _ =>
    change indexExtra kind ≤ 3
    cases kind <;> decide
  | _ => decide

/-- A 6809 length is that of page byte, opcode and operand, or the count of the bytes at hand (R190, R191). -/
theorem resolve6809_length_cases (h : resolve6809 raw n = some (mode, k)) :
    k = 1 + pageBytes raw + extra6809 mode ∨ k = n := by
  unfold resolve6809 at h
  simp only at h
  repeat' split at h
  all_goals cases h
  · exact .inl rfl
  · exact .inr rfl
  · exact .inl rfl

theorem resolve_length_le (h : entriesFit p t = true) (hn : n ≤ maxBytes) (hr : resolve p t raw n = some (mode, k)) :
    k ≤ maxBytes := by
  cases p with
  | p6502 | p65C02 =>
    have hk := congrArg Prod.snd (Option.some.inj hr)
    exact hk.symm.trans_le ((classify6502_length_le _).trans (by decide))
  | p6800 =>
    have hk := congrArg Prod.snd (Option.some.inj hr)
    exact hk.symm.trans_le ((length6800_le _).trans (by decide))
  | p6809 | p6809E =>
    have hpage := pageBytes_le_one raw
    have hextra := extra6809_le mode
    obtain hk | rfl := resolve6809_length_cases hr
    · simp only [maxBytes]
      omega
    · exact hn
  | pZ80 =>
    obtain ⟨tp, htp, hk⟩ := Option.map_eq_some_iff.mp hr
    cases hk
    exact (templateZ80_fits (fun op => List.all_eq_true.mp h _ (tableAt_mem _ op)) htp).2

/-! ## W2 -/

/-- The 6502 formatter is given the mode that its resolver read from the same template. -/
theorem format6502_resolved_length_le {table : Table} (h : tableAll table entryFits6502 = true)
    (hr : some (resolve6502 table raw) = some (mode, k)) (abs : Bool) (a : Address) (n : Nat) :
    (format6502 abs (tableAt table (rawAt raw 0)) mode raw a n).withAnnotation.length ≤ maxString := by
  have hmode : (classify6502 (tableAt table (rawAt raw 0))).1 = mode := congrArg Prod.fst (Option.some.inj hr)
  exact hmode ▸ format6502_length_le (List.all_eq_true.mp h _ (tableAt_mem _ _)) abs raw a n

/-- What the formatter of a profile builds for bytes on which its resolver has answered has at most 28 characters. -/
theorem format_length_le (h : entriesFit p t = true) {x : Session}
    (hr : resolve p t x.rawBytes x.bytesFetched = some (x.addressingMode, x.bytesRequired)) :
    (format p t x).withAnnotation.length ≤ maxString := by
  cases p with
  | p6502 | p65C02 => exact format6502_resolved_length_le h hr _ _ _
  | p6800 =>
    have hentry := List.all_eq_true.mp h _ (tableAt_mem t.t6800 (rawAt x.rawBytes 0))
    exact format6800_length_le (of_decide_eq_true (Bool.and_eq_true_iff.mp hentry).2) _ _ _ _
  | p6809 | p6809E => exact format6809_length_le (mnemonic6809_length_le h _) _ _ _ _ _
  | pZ80 =>
    obtain ⟨tp, htp, _⟩ := Option.map_eq_some_iff.mp hr
    simp only [format, formatZ80, htp]
    exact formatTemplate_length_le (templateZ80_fits (fun op => List.all_eq_true.mp h _ (tableAt_mem _ op)) htp).1 _ _

theorem fullText_length_le (h : entriesFit p t = true) {x : Session}
    (hr : resolve p t x.rawBytes x.bytesFetched = some (x.addressingMode, x.bytesRequired)) :
    (x.fullText p t).length ≤ maxString := by
  rw [fullText_eq, Session.rendering]
  split
  · decide
  · exact format_length_le h hr

/-! ## The statements -/

/-- Settles O15. -/
theorem formattedTextFits : Obligations.FormattedTextFits := fun _ _ x h hr =>
  ⟨rendering_body_ne_nil (isEntry_of_entriesFit h) x, fullText_length_le h hr⟩

/-- Settles O14: the session of W2 is one on which the resolver has answered with its own mode and length. -/
theorem entryConditionsSuffice : Obligations.EntryConditionsSuffice := fun _ _ h => {
  w1 := isEntry_of_entriesFit h
  w2 := fun a bs mode _ _ hr => fullText_length_le h (x := Session.fetched a bs mode) hr
  w3 := fun _ _ _ _ hlen hr => resolve_length_le h hlen hr }

theorem entriesFit_reference (p : Profile) : entriesFit p referenceParameters = true := by
  have h6809 : entriesFit .p6809 referenceParameters = true := by decide +kernel
  cases p with
  | p6502 => exact entriesFit_p6502_reference
  | p6809 | p6809E => exact h6809
  | p65C02 | p6800 | pZ80 => decide +kernel

/-- Settles O13. -/
theorem referenceParametersAreWellFormed : Obligations.ReferenceParametersAreWellFormed := fun p =>
  ⟨entriesFit_reference p, entryConditionsSuffice p _ (entriesFit_reference p)⟩

end Sys2Proof.Machine
end

