-- ==== Sys2Proof/Proofs/RowTexts.lean ====
section
/-! SUPPORT. Every row but a postbyte row runs the string that the tables and the fixed constructions give its lead: the
page, `CB`, `ED`, `DD`/`FD` and `DD/FD CB` grids (R86, R210, R245 to R251), beside the five string tables. -/

namespace Sys2Proof.Machine

/-- The meaning of a constructor is `runRow` on a text of the form, in which neither the operand nor the displacement of
a compound lead has a part. -/
structure RowRuns (c : Form → Instr) (text : Form → Text) : Prop where
  runs : ∀ f s, exec (c f) s = runRow (text f) f s
  operand_free : ∀ lead operand, text ⟨lead, operand⟩ = text ⟨lead, .none⟩
  disp_free : ∀ reg disp op, text ⟨.xyCb reg disp op, .none⟩ = text ⟨.xyCb reg 0 op, .none⟩

/-- All bytes in order. -/
def allBytes : List Byte := (List.range 256).map (BitVec.ofNat 8)

/-- Each row of a grid runs a text of its own, and on each of the given leads this is the string of the lead. -/
def GridRuns (grid : RowGrid) (leads : List (Byte → Lead)) : Prop :=
  ∃ texts, List.Forall₂ RowRuns grid texts ∧
    ∀ row ∈ texts.zip allBytes, ∀ lead ∈ leads, row.1 ⟨lead row.2, .none⟩ = rowText (lead row.2)

theorem GridRuns.intro {grid : RowGrid} {texts : List (Form → Text)} {leads : List (Byte → Lead)}
    (rows : List.Forall₂ RowRuns grid texts)
    (same : ∀ row ∈ texts.zip allBytes, ∀ lead ∈ leads, row.1 ⟨lead row.2, .none⟩ = rowText (lead row.2)) :
    GridRuns grid leads := ⟨texts, rows, same⟩

theorem forall₂_append {R : (Form → Instr) → (Form → Text) → Prop} {l l' : RowGrid} {m m' : List (Form → Text)}
    (h : List.Forall₂ R l m) (h' : List.Forall₂ R l' m') : List.Forall₂ R (l ++ l') (m ++ m') := List.rel_append h h'

theorem rowRuns_unknown : RowRuns .unknown fun _ => ascii "?" :=
  ⟨fun _ _ => rfl, fun _ _ => rfl, fun _ _ _ => rfl⟩

section
set_option maxRecDepth 4000

/-! In each grid the texts are those that the rows' meanings name, line by line; then they are compared with the
tables. -/

theorem rowsPage2_run : GridRuns rowsPage2 [.paged .page2] := by
  apply GridRuns.intro
  case rows =>
    unfold rowsPage2
    repeat' apply forall₂_append
    all_goals repeat' first
      | exact .nil | apply List.Forall₂.cons | exact rowRuns_unknown
      | exact ⟨fun _ _ => rfl, fun _ _ => rfl, fun _ _ _ => rfl⟩
  case same => decide +kernel

theorem rowsPage3_run : GridRuns rowsPage3 [.paged .page3] := by
  apply GridRuns.intro
  case rows =>
    unfold rowsPage3
    repeat' apply forall₂_append
    all_goals repeat' first
      | exact .nil | apply List.Forall₂.cons | exact rowRuns_unknown
      | exact ⟨fun _ _ => rfl, fun _ _ => rfl, fun _ _ _ => rfl⟩
  case same => decide +kernel

theorem rowsCB_run : GridRuns rowsCB [.cb] := by
  apply GridRuns.intro
  case rows =>
    unfold rowsCB
    repeat' apply forall₂_append
    all_goals repeat' first
      | exact .nil | apply List.Forall₂.cons | exact ⟨fun _ _ => rfl, fun _ _ => rfl, fun _ _ _ => rfl⟩
  case same => decide +kernel

theorem rowsED_run : GridRuns rowsED [.ed] := by
  apply GridRuns.intro
  case rows =>
    unfold rowsED
    repeat' apply forall₂_append
    all_goals repeat' first
      | exact .nil | apply List.Forall₂.cons | exact rowRuns_unknown
      | exact ⟨fun _ _ => rfl, fun _ _ => rfl, fun _ _ _ => rfl⟩
  case same => decide +kernel

theorem rowsXY_run : GridRuns rowsXY [.xy .ix, .xy .iy] := by
  apply GridRuns.intro
  case rows =>
    unfold rowsXY
    repeat' apply forall₂_append
    all_goals repeat' first
      | exact .nil | apply List.Forall₂.cons | exact ⟨fun _ _ => rfl, fun _ _ => rfl, fun _ _ _ => rfl⟩
  case same => decide +kernel

theorem rowsXYCB_run : GridRuns rowsXYCB [.xyCb .ix 0, .xyCb .iy 0] := by
  apply GridRuns.intro
  case rows =>
    unfold rowsXYCB
    repeat' apply forall₂_append
    all_goals repeat' first
      | exact .nil | apply List.Forall₂.cons | exact ⟨fun _ _ => rfl, fun _ _ => rfl, fun _ _ _ => rfl⟩
  case same => decide +kernel

end

theorem length_of_mem_rowGrids {grid : RowGrid} (h : grid ∈ rowGrids) : grid.length = 256 := by
  have hmap := List.mem_map_of_mem (f := fun grid : RowGrid => grid.map fun c f => instrForm (c f)) h
  rw [map_instrForm_rowGrids] at hmap
  have hlen := congrArg List.length (List.eq_of_mem_replicate hmap)
  rwa [List.length_map, List.length_replicate] at hlen

theorem allBytes_getElem? (op : Byte) : allBytes[op.toNat]? = some op := by
  rw [allBytes, List.getElem?_map, List.getElem?_range op.isLt, Option.map_some, BitVec.ofNat_toNat, BitVec.setWidth_eq]

/-- The row of a grid at an opcode runs the string of the opcode's lead. -/
theorem GridRuns.row_at {grid : RowGrid} {leads : List (Byte → Lead)} (h : GridRuns grid leads) (hg : grid ∈ rowGrids)
    (op : Byte) : ∃ text, RowRuns (grid.getD op.toNat .unknown) text ∧
      ∀ lead ∈ leads, text ⟨lead op, .none⟩ = rowText (lead op) := by
  obtain ⟨texts, rows, same⟩ := h
  have hgrid : op.toNat < grid.length := (length_of_mem_rowGrids hg).symm ▸ op.isLt
  have htexts : op.toNat < texts.length := rows.length_eq ▸ hgrid
  have hzip : (texts[op.toNat], op) ∈ texts.zip allBytes := List.mem_of_getElem?
    (List.getElem?_zip_eq_some.mpr ⟨List.getElem?_eq_getElem htexts, allBytes_getElem? op⟩)
  refine ⟨texts[op.toNat], ?_, same _ hzip⟩
  rw [List.getD_eq_getElem _ _ hgrid]
  exact rows.get hgrid htexts

theorem GridRuns.exec_gridAt {grid : RowGrid} {leads : List (Byte → Lead)} (h : GridRuns grid leads)
    (hg : grid ∈ rowGrids) {lead : Byte → Lead} (hlead : lead ∈ leads) (op : Byte) (operand : Operand) (s : State) :
    exec (gridAt grid op ⟨lead op, operand⟩) s = runRow (rowText (lead op)) ⟨lead op, operand⟩ s := by
  obtain ⟨text, hrow, hsame⟩ := h.row_at hg op
  rw [gridAt, hrow.runs, hrow.operand_free, hsame lead hlead]

theorem exec_xyCbRow (reg : IndexReg) (disp op : Byte) (operand : Operand) (s : State) :
    exec (gridAt rowsXYCB op ⟨.xyCb reg disp op, operand⟩) s =
      runRow (rowText (.xyCb reg disp op)) ⟨.xyCb reg disp op, operand⟩ s := by
  obtain ⟨text, hrow, hsame⟩ := rowsXYCB_run.row_at (by simp [rowGrids]) op
  rw [gridAt, hrow.runs, hrow.operand_free, hrow.disp_free, hsame (.xyCb reg 0) (by cases reg <;> simp)]
  rfl

/-- The instruction of a form that is no postbyte runs the string of its lead (R86). -/
theorem exec_instrOf (f : Form) (h : isPostbyte f.lead = false) (s : State) :
    exec (instrOf f) s = runRow (rowText f.lead) f s := by
  obtain ⟨lead, operand⟩ := f
  match lead, h with
  | .mos6502 _ _, _ | .m6800 _, _ | .m6809 _, _ | .z80 _, _ => exact exec_tableRow _ rfl operand s
  | .paged .page2 op, _ => exact rowsPage2_run.exec_gridAt (by simp [rowGrids]) (by simp) op operand s
  | .paged .page3 op, _ => exact rowsPage3_run.exec_gridAt (by simp [rowGrids]) (by simp) op operand s
  | .cb op, _ => exact rowsCB_run.exec_gridAt (by simp [rowGrids]) (by simp) op operand s
  | .ed op, _ => exact rowsED_run.exec_gridAt (by simp [rowGrids]) (by simp) op operand s
  | .xy reg op, _ => exact rowsXY_run.exec_gridAt (by simp [rowGrids]) (by cases reg <;> simp) op operand s
  | .xyCb reg disp op, _ => exact exec_xyCbRow reg disp op operand s

end Sys2Proof.Machine
end

