-- ==== Sys2Proof/Proofs/Feeding.lean ====
section
/-! SUPPORT. Feeding bytes command by command until the resolver's length is reached (R52, R110, R111, R113, R117): the
session in flight after each byte, and the session and reply after the last. -/

namespace Sys2Proof.Machine

variable {p : Profile} {t : Parameters} {s : State} {mode : AddressingMode}

/-- A session in flight that was fed the bytes `bs` at an address, with the resolver's answer if one has come (R110,
R111, R113). -/
def Session.inFlight (a : Address) (bs : List Byte) (answer : Option (AddressingMode × Nat)) : Session where
  state := .fetching
  instructionAddress := a
  rawBytes := rawOf bs
  bytesFetched := bs.length
  bytesRequired := (answer.map Prod.snd).getD 0
  addressingMode := (answer.map Prod.fst).getD .unset
  resolvedTargetAddress := 0
  resolvedTargetValid := false
  outputString := []

theorem started_eq_inFlight (a : Address) (b : Byte) : Session.started a b = Session.inFlight a [b] none := rfl

theorem fetched_eq_inFlight (a : Address) (bs : List Byte) (mode : AddressingMode) :
    Session.fetched a bs mode = Session.inFlight a bs (some (mode, bs.length)) := rfl

/-- A byte stored behind the bytes of a buffer is the next of its bytes (R52). -/
theorem rawOf_append (bs : List Byte) (b : Byte) (h : bs.length < maxBytes) :
    (rawOf bs).setIfInBounds bs.length b = rawOf (bs ++ [b]) := by
  match bs, h with
  | [], _ | [_], _ | [_, _], _ | [_, _, _], _ | [_, _, _, _], _ | [_, _, _, _, _], _ | [_, _, _, _, _, _], _
  | [_, _, _, _, _, _, _], _ => rfl

theorem append_inFlight (a : Address) (bs : List Byte) (b : Byte) (answer : Option (AddressingMode × Nat))
    (h : bs.length < maxBytes) :
    (Session.inFlight a bs answer).append b = Session.inFlight a (bs ++ [b]) answer := by
  simp only [Session.append, Session.inFlight, rawOf_append bs b h, List.length_append, List.length_singleton]

/-- The resolver's answers while an instruction is fed, byte by byte: none at first, then its mode and length, which are
there with its last byte. -/
structure Decodes (p : Profile) (t : Parameters) (bs : List Byte) (mode : AddressingMode) : Prop where
  whole : resolve p t (rawOf bs) bs.length = some (mode, bs.length)
  before : ∀ n < bs.length, resolve p t (rawOf bs) n = none ∨ resolve p t (rawOf bs) n = some (mode, bs.length)

/-- On the bytes at hand the resolver answers as it does over the whole instruction. -/
theorem resolve_seen (p : Profile) (t : Parameters) {seen : List Byte} (rest : List Byte) (h : seen ≠ []) :
    resolve p t (rawOf seen) seen.length = resolve p t (rawOf (seen ++ rest)) seen.length := by
  refine resolve_congr p t (List.length_pos_iff.mpr h) fun j hj => ?_
  have hget : seen.getD j 0 = (seen ++ rest).getD j 0 := (List.getD_append _ _ _ _ hj).symm
  match j with
  | 0 | 1 | 2 | 3 | 4 | 5 | 6 | 7 => exact hget
  | j + 8 => rw [rawAt_of_le _ (by simp), rawAt_of_le _ (by simp)]

/-- What an instruction being fed may have of the resolver's answer: nothing yet, or its mode and length. -/
def Learned (bs : List Byte) (mode : AddressingMode) (answer : Option (AddressingMode × Nat)) : Prop :=
  answer = none ∨ answer = some (mode, bs.length)

/-- The completed session of an instruction that was fed whole. -/
def Session.decoded (p : Profile) (t : Parameters) (a : Address) (bs : List Byte) (mode : AddressingMode) : Session :=
  (Session.fetched a bs mode).finish ((Session.fetched a bs mode).rendering p t)

/-- A length that has been learned is kept. -/
theorem resolved_inFlight_known (a : Address) (bs : List Byte) (mode : AddressingMode) {k : Nat} (hk : k ≠ 0) :
    (Session.inFlight a bs (some (mode, k))).resolved p t = some (Session.inFlight a bs (some (mode, k))) := if_neg hk

/-- Until then the resolver is asked. -/
theorem resolved_inFlight_unknown (a : Address) (bs : List Byte) :
    (Session.inFlight a bs none).resolved p t =
      (resolve p t (rawOf bs) bs.length).map fun answer => Session.inFlight a bs (some answer) := rfl

/-- The pass after the last byte formats and completes. -/
theorem pass_inFlight_whole (a : Address) {bs : List Byte} {answer : Option (AddressingMode × Nat)} (hne : bs ≠ [])
    (h : Decodes p t bs mode) (hanswer : Learned bs mode answer) :
    (Session.inFlight a bs answer).pass p t = Session.decoded p t a bs mode := by
  have hresolved : (Session.inFlight a bs answer).resolved p t = some (Session.fetched a bs mode) := by
    obtain rfl | rfl := hanswer
    · rw [resolved_inFlight_unknown, h.whole]
      rfl
    · exact resolved_inFlight_known a bs mode (List.length_pos_iff.mpr hne).ne'
  rw [Session.pass, hresolved]
  exact if_pos rfl

/-- The pass after an earlier byte stays in flight. -/
theorem pass_inFlight_part (a : Address) {seen rest : List Byte} {answer : Option (AddressingMode × Nat)}
    (hseen : seen ≠ []) (hrest : rest ≠ []) (h : Decodes p t (seen ++ rest) mode)
    (hanswer : Learned (seen ++ rest) mode answer) :
    ∃ answer', (Session.inFlight a seen answer).pass p t = Session.inFlight a seen answer' ∧
      Learned (seen ++ rest) mode answer' := by
  have hshort : seen.length < (seen ++ rest).length := by
    simpa using List.length_pos_iff.mpr hrest
  have hlearned (hresolved : (Session.inFlight a seen answer).resolved p t =
      some (Session.inFlight a seen (some (mode, (seen ++ rest).length)))) :
      (Session.inFlight a seen answer).pass p t = Session.inFlight a seen (some (mode, (seen ++ rest).length)) := by
    rw [Session.pass, hresolved]
    exact if_neg hshort.ne
  obtain rfl | rfl := hanswer
  · have hresolve := resolved_inFlight_unknown (p := p) (t := t) a seen
    rw [resolve_seen p t rest hseen] at hresolve
    obtain hnone | hsome := h.before seen.length hshort
    · rw [hnone] at hresolve
      exact ⟨none, by rw [Session.pass, hresolve]; rfl, .inl rfl⟩
    · rw [hsome] at hresolve
      exact ⟨_, hlearned hresolve, .inr rfl⟩
  · exact ⟨_, hlearned (resolved_inFlight_known a seen mode (by omega)), .inr rfl⟩

/-- `continue` with the remaining bytes of an instruction in flight completes it, and the last one answers true. -/
theorem runCommands_feed_inFlight (a : Address) {whole : List Byte} (hlen : whole.length ≤ maxBytes)
    (h : Decodes s.profile (parametersOf s.parameters) whole mode) (rest : List Byte) :
    ∀ {seen : List Byte} {answer : Option (AddressingMode × Nat)} (r : Reply), seen ≠ [] → rest ≠ [] →
      whole = seen ++ rest → Learned whole mode answer →
      runCommands (rest.map .feed) { s with session := Session.inFlight a seen answer, reply := r } =
        .next { s with
          session := Session.decoded s.profile (parametersOf s.parameters) a whole mode
          reply := .transition true } := by
  induction rest with
  | nil => exact fun _ _ hrest => absurd rfl hrest
  | cons b rest ih =>
    intro seen answer r hseen _ hwhole hanswer
    have hwhole' : whole = (seen ++ [b]) ++ rest := by simpa using hwhole
    have hroom : seen.length < maxBytes := by
      have := congrArg List.length hwhole
      simp only [List.length_append, List.length_cons] at this
      omega
    have hfeed : (Session.inFlight a seen answer).feed s.profile (parametersOf s.parameters) b =
        (Session.inFlight a (seen ++ [b]) answer).pass s.profile (parametersOf s.parameters) := by
      rw [← append_inFlight a seen b answer hroom]
      exact (if_neg (not_not.mpr rfl)).trans (if_neg hroom.ne)
    rw [List.map_cons, runCommands_cons, runCommand_feed]
    simp only [hfeed]
    by_cases hrest : rest = []
    · subst hrest
      rw [List.append_nil] at hwhole'
      subst hwhole'
      rw [pass_inFlight_whole a (by simp) h hanswer]
      rfl
    · subst hwhole'
      obtain ⟨answer', hpass, hanswer'⟩ := pass_inFlight_part a (by simp) hrest h hanswer
      rw [hpass]
      exact ih _ (by simp) hrest rfl hanswer'

/-- The reply of the command that feeds the last of some bytes: nothing from `begin`, true from `continue` (R70). -/
def lastReply (bs : List Byte) : Reply := if bs.length = 1 then .nothing else .transition true

theorem rowReply_eq (f : Form) : rowReply f = lastReply (formBytes f) := rfl

/-- Outside `Fetching`, `begin` and `continue` with the bytes of one instruction leave it decoded whole (R117). -/
theorem runCommands_decodes (a : Address) {b : Byte} {bs : List Byte} (hs : s.session.state ≠ .fetching)
    (hlen : (b :: bs).length ≤ maxBytes) (h : Decodes s.profile (parametersOf s.parameters) (b :: bs) mode) :
    runCommands (.begin a b :: bs.map .feed) s = .next { s with
      session := Session.decoded s.profile (parametersOf s.parameters) a (b :: bs) mode
      reply := lastReply (b :: bs) } := by
  rw [runCommands_cons, runCommand, if_neg hs, started_eq_inFlight]
  by_cases hbs : bs = []
  · subst hbs
    simp only [pass_inFlight_whole a (List.cons_ne_nil b []) h (.inl rfl)]
    rfl
  · obtain ⟨answer, hpass, hanswer⟩ := pass_inFlight_part (seen := [b]) a (by simp) hbs h (.inl rfl)
    have hreply : lastReply (b :: bs) = .transition true := if_neg (by simpa using hbs)
    simp only [hpass, hreply]
    exact runCommands_feed_inFlight a hlen h bs .nothing (by simp) hbs rfl hanswer

end Sys2Proof.Machine
end

