-- ==== Sys2Proof/Proofs/RowLengths.lean ====
section
/-! SUPPORT. On the bytes of a form that fits its row the operand, the mode and the template agree on the length (R142,
R163, R182, R241, R242). -/

namespace Sys2Proof.Machine

variable {p : Profile} {t : Parameters} {mode : AddressingMode}

/-! ## Lengths -/

theorem operandBytes_length (big : Bool) {kind : OperandKind} {operand : Operand} (h : operandFits kind operand = true)
    (hkind : kind ≠ .indexed) : (operandBytes big operand).length = operandRoom kind := by
  match kind, operand, h with
  | .none, .none, _ | .byte, .byte _, _ | .dispByte, .dispByte _ _, _ => rfl
  | .word, .word w, _ => cases big <;> rfl

/-- An indexed operand is its postbyte and the bytes this asks for. -/
theorem operandBytes_indexed (big : Bool) {operand : Operand} (h : operandFits .indexed operand = true) :
    (∃ bs, operandBytes big operand = operandPostbyte operand :: bs) ∧
      (operandBytes big operand).length = extra6809 (postbyteMode (operandPostbyte operand)) := by
  match operand, h with
  | .index pb, h | .index8 pb v, h => exact ⟨⟨_, rfl⟩, (eq_of_beq h).symm⟩
  | .index16 pb w, h =>
    have hword : (wordBytes big w).length = 2 := by cases big <;> rfl
    exact ⟨⟨_, rfl⟩, (congrArg Nat.succ hword).trans (eq_of_beq h).symm⟩

theorem kindOfMode_ne_indexed (mode : AddressingMode) : kindOfMode mode ≠ .indexed := by
  unfold kindOfMode
  split <;> simp

theorem kindOfTemplate_ne_indexed (text : Text) : kindOfTemplate text ≠ .indexed := by
  unfold kindOfTemplate
  split <;> simp

theorem classify6502_length (text : Text) :
    (classify6502 text).2 = 1 + operandRoom (kindOfMode (classify6502 text).1) := by
  unfold classify6502
  split_ifs <;> rfl

theorem length6800_mode6800 (op : Byte) : length6800 (mode6800 standardImm16 op) =
    1 + operandRoom (kindOfMode (mode6800 standardImm16 op)) := by
  revert op
  decide +kernel

/-! ## Answers -/

/-- An answer with the last byte is an instruction's whole course, where the `Invalid` mode does not come a byte
earlier. -/
theorem decodes_of_whole {bs : List Byte} (hwhole : resolve p t (rawOf bs) bs.length = some (mode, bs.length))
    (hinvalid : mode = .invalid → resolve p t (rawOf bs) (bs.length - 1) = none) : Decodes p t bs mode := by
  refine ⟨hwhole, fun n hn => ?_⟩
  cases resolve_answers p t (rawOf bs) with
  | fixed w mode' k hw hk ha =>
    rw [ha] at hwhole ⊢
    split at hwhole <;> cases hwhole
    by_cases hlt : n < w
    · exact .inl (if_pos hlt)
    · exact .inr (if_neg hlt)
  | invalid w ha =>
    rw [ha] at hwhole ⊢
    split at hwhole <;> cases hwhole
    have hbefore := hinvalid rfl
    rw [ha] at hbefore
    split at hbefore
    · exact .inl (if_pos (by omega))
    · cases hbefore

/-! ## The 6809 -/

/-- The operand bytes of a base mode are those of its shape; no base mode is `Invalid` (R183 to R186, R190). -/
theorem baseMode6809_extra (op : Byte) (paged : Bool) : ∀ mode ∈ baseMode6809 op paged,
    extra6809 mode = operandRoom (kindOf6809 (some mode)) ∧ kindOf6809 (some mode) ≠ .indexed ∧ mode ≠ .invalid := by
  revert op paged
  decide +kernel

/-- The 6809 resolver on a buffer that holds an opcode, with or without a page byte, and an operand that fits it. -/
theorem resolve6809_row {raw : RawBytes} {op : Byte} {paged : Bool} {operand : Operand}
    (hpage : pageBytes raw = paged.toNat) (hop : rawAt raw paged.toNat = op)
    (hpb : ∀ pb bs, operandBytes true operand = pb :: bs → rawAt raw (paged.toNat + 1) = pb)
    (hfits : operandFits (kindOf6809 (baseMode6809 op paged)) operand = true) {n : Nat}
    (hn : n = paged.toNat + 1 + (operandBytes true operand).length) :
    resolve6809 raw n = some (resolvedMode (baseMode6809 op paged) operand, n) ∧
      (resolvedMode (baseMode6809 op paged) operand = .invalid → resolve6809 raw (n - 1) = none) := by
  have hpaged : (paged.toNat == 1) = paged := by cases paged <;> rfl
  simp only [resolve6809, hpage, hop, hpaged]
  cases hbase : baseMode6809 op paged with
  | some mode =>
    obtain ⟨hextra, hkind, hvalid⟩ := baseMode6809_extra op paged mode hbase
    rw [hbase] at hfits
    rw [operandBytes_length true hfits hkind, ← hextra] at hn
    refine ⟨?_, fun h => absurd h hvalid⟩
    rw [if_neg (by omega)]
    simp only [resolvedMode, hn, Nat.add_comm 1]
  | none =>
    rw [hbase] at hfits
    obtain ⟨⟨bs, hbs⟩, hlen⟩ := operandBytes_indexed true hfits
    have hpos : 1 ≤ (operandBytes true operand).length := by rw [hbs]; exact Nat.succ_pos _
    rw [hpb _ _ hbs]
    simp only [resolvedMode]
    rw [if_neg (show ¬ n < paged.toNat + 1 by omega), if_neg (show ¬ n < paged.toNat + 2 by omega)]
    rw [hlen] at hn
    obtain hmode | ⟨kind, indirect, hmode⟩ := postbyteMode_cases (operandPostbyte operand)
    · rw [hmode] at hn ⊢
      have hone : extra6809 .invalid = 1 := rfl
      refine ⟨rfl, fun _ => ?_⟩
      rw [if_neg (by omega), if_pos (by omega)]
    · rw [hmode] at hn ⊢
      refine ⟨?_, nofun⟩
      simp only [hn, Nat.add_comm 1]

/-! ## The Z80 -/

/-- The operand bytes of a template are those of its placeholders (R249). -/
theorem templateWidth_eq_sum (text : Text) : templateWidth text = ((operandPieces text).map pieceWidth).sum := by
  unfold templateWidth operandPieces
  induction scanTemplate text with
  | nil => rfl
  | cons piece ps ih => cases piece <;> simp [pieceWidth, ih]

/-- The placeholder lists that a shape of operand stands for. -/
def shapedPieces : List (List Piece) := [[], [.word], [.byte], [.disp], [.rel], [.disp, .byte]]

theorem templateWidth_of_shaped {text : Text} (h : operandPieces text ∈ shapedPieces) :
    templateWidth text = operandRoom (kindOfTemplate text) := by
  have hall : ∀ ps ∈ shapedPieces, operandPieces text = ps →
      templateWidth text = operandRoom (kindOfTemplate text) := by
    simp +contextual [shapedPieces, templateWidth_eq_sum, kindOfTemplate, pieceWidth, operandRoom]
  exact hall _ h rfl

/-- No reference template holds any other list, as it stands or behind `DD` or `FD` (R280). -/
theorem referenceTZ80_shaped : ∀ text ∈ referenceTZ80.toList, operandPieces text ∈ shapedPieces ∧
    ∀ reg ∈ [IndexReg.ix, .iy], operandPieces (rewriteHL text reg) ∈ shapedPieces := by
  decide +kernel

theorem edTemplate_shaped (op : Byte) : operandPieces (edTemplate op) ∈ shapedPieces := by
  revert op
  decide +kernel

theorem addTemplate_shaped (r : IndexReg) {k : Nat} (hk : k < 4) :
    operandPieces (ascii "ADD " ++ iregName r ++ ascii "," ++ rrxName r k) ∈ shapedPieces := by
  cases r <;> revert k <;> decide +kernel

theorem xyTemplate_shaped (reg : IndexReg) (op : Byte) :
    operandPieces (xyTemplate referenceTZ80 reg op) ∈ shapedPieces := by
  unfold xyTemplate
  split
  · exact addTemplate_shaped reg (Nat.mod_lt _ (by decide))
  · exact (referenceTZ80_shaped _ (tableAt_mem _ op)).2 reg (by cases reg <;> simp)

theorem cbTemplate_width (op : Byte) : templateWidth (cbTemplate op) = 0 := by
  revert op
  decide +kernel

/-- The template of a Z80 row is the row's own once its lead bytes are there (R241). -/
theorem templateZ80_row {lead : Lead} (hreads : profileReads .pZ80 lead = true) (hopens : leadOpens lead = true)
    (operand : Operand) (bs : List Byte) {n : Nat} (hn : (leadBytes lead).length ≤ n) :
    templateZ80 referenceTZ80 (rawOf (leadBytes lead ++ bs)) n = some (rowTemplate (rowText lead) ⟨lead, operand⟩) := by
  match lead, hreads with
  | .z80 op, _ =>
    have hlead : ((op ≠ 0xCB ∧ op ≠ 0xED) ∧ op ≠ 0xDD) ∧ op ≠ 0xFD := by simpa [leadOpens, isZ80LeadIn] using hopens
    obtain ⟨⟨⟨hcb, hed⟩, hdd⟩, hfd⟩ := hlead
    have h0 : rawAt (rawOf (leadBytes (.z80 op) ++ bs)) 0 = op := rfl
    simp only [templateZ80, h0, if_neg hcb, if_neg hed, if_neg (not_or.mpr ⟨hdd, hfd⟩)]
    rfl
  | .cb op, _ => exact if_neg (Nat.not_lt.mpr hn)
  | .ed op, _ => exact if_neg (Nat.not_lt.mpr hn)
  | .xy .ix op, _ | .xy .iy op, _ =>
    have hop : op ≠ 0xCB := by simpa [leadOpens] using hopens
    exact (if_neg (Nat.not_lt.mpr hn)).trans (if_neg hop)
  | .xyCb .ix disp op, _ | .xyCb .iy disp op, _ =>
    have h2 : ¬ n < 2 := Nat.not_lt.mpr (Nat.le_trans (show 2 ≤ 4 by decide) hn)
    exact (if_neg h2).trans (if_neg (Nat.not_lt.mpr hn))

/-- The operand of a Z80 row takes as many bytes as its string has placeholders for; the displacement of the compound
form is among its four lead bytes (R249, R251). -/
theorem rowTemplate_length {lead : Lead} (hreads : profileReads .pZ80 lead = true) {operand : Operand}
    (hfits : operandFits (leadKind lead) operand = true) :
    templateLength (rowTemplate (rowText lead) ⟨lead, operand⟩) = (formBytes ⟨lead, operand⟩).length := by
  have hshaped {text : Text} (h : operandPieces text ∈ shapedPieces)
      (hfits : operandFits (kindOfTemplate text) operand = true) :
      templateWidth text = (operandBytes false operand).length := by
    rw [templateWidth_of_shaped h, operandBytes_length false hfits (kindOfTemplate_ne_indexed text)]
  rw [formBytes, List.length_append]
  match lead, hreads with
  | .z80 op, _ => exact congrArg (1 + ·) (hshaped (referenceTZ80_shaped _ (tableAt_mem _ op)).1 hfits)
  | .ed op, _ => exact congrArg (2 + ·) (hshaped (edTemplate_shaped op) hfits)
  | .xy reg op, _ => exact congrArg (2 + ·) (hshaped (xyTemplate_shaped reg op) hfits)
  | .cb op, _ =>
    exact congrArg (2 + ·) ((cbTemplate_width op).trans (operandBytes_length (kind := .none) false hfits nofun).symm)
  | .xyCb reg disp op, _ =>
    exact congrArg (4 + ·) (operandBytes_length (kind := .none) false hfits nofun).symm

end Sys2Proof.Machine
end

