-- ==== Sys2Proof/Proofs/RowCommands.lean ====
section
/-! SUPPORT. On the bytes of a row the resolver of its profile answers with the row's mode and length, and the formatter
renders the row's string, so the row does what its bytes do (R86, R113, R117). -/

namespace Sys2Proof.Machine

variable {p : Profile} {f : Form}

/-! ## Rows -/

/-- The opcode of an unprefixed 6809 row is no page byte, and the lead of a paged one opens with one (R181). -/
theorem pageBytes_m6809 {op : Byte} (hopens : leadOpens (.m6809 op) = true) (bs : List Byte) :
    pageBytes (rawOf (op :: bs)) = 0 := by
  have hpage : isPageByte op = false := by simpa [leadOpens] using hopens
  exact if_neg (Bool.eq_false_iff.mp hpage)

theorem pageBytes_paged (page : Page) (bs : List Byte) : pageBytes (rawOf (pageByte page :: bs)) = 1 := by
  cases page <;> rfl

theorem profileReads_p6809E (lead : Lead) : profileReads .p6809E lead = profileReads .p6809 lead := by
  cases lead <;> rfl

/-- The resolver of a profile answers on the bytes of a row with the row's mode and length, and with the `Invalid` mode
on the last byte only (R113). -/
def RowResolves (p : Profile) (f : Form) : Prop :=
  resolve p referenceParameters (rawOf (formBytes f)) (formBytes f).length =
      some (rowMode (rowText f.lead) f, (formBytes f).length) ∧
    (rowMode (rowText f.lead) f = .invalid →
      resolve p referenceParameters (rawOf (formBytes f)) ((formBytes f).length - 1) = none)

theorem resolve6502_row {text : Text} {operand : Operand}
    (h : operandFits (kindOfMode (classify6502 text).1) operand = true) :
    some (classify6502 text) = some ((classify6502 text).1, (operandBytes false operand).length + 1) ∧
      (classify6502 text).1 ≠ .invalid := by
  constructor
  · rw [operandBytes_length false h (kindOfMode_ne_indexed _), Nat.add_comm, ← classify6502_length]
  · unfold classify6502
    split_ifs <;> nofun

theorem resolve6800_row {op : Byte} {operand : Operand}
    (h : operandFits (kindOfMode (mode6800 standardImm16 op)) operand = true) :
    some (mode6800 standardImm16 op, length6800 (mode6800 standardImm16 op)) =
        some (mode6800 standardImm16 op, (operandBytes true operand).length + 1) ∧
      mode6800 standardImm16 op ≠ .invalid := by
  constructor
  · rw [operandBytes_length true h (kindOfMode_ne_indexed _), Nat.add_comm, ← length6800_mode6800]
  · unfold mode6800
    split_ifs
    · nofun
    · nofun
    · split <;> nofun

theorem resolves_6809 (hreads : profileReads .p6809 f.lead = true) (hpost : isPostbyte f.lead = false)
    (hfits : formFits f = true) : RowResolves .p6809 f := by
  obtain ⟨hopens, hoperand⟩ := Bool.and_eq_true_iff.mp hfits
  match f, hreads with
  | ⟨.m6809 op, operand⟩, _ =>
    refine resolve6809_row (paged := false) (op := op) (pageBytes_m6809 hopens _) rfl ?_ hoperand ?_
    · exact fun pb bs h => by simp only [isBigEndian, h]; rfl
    · exact (List.length_append).trans (congrArg (· + _) rfl)
  | ⟨.paged page op, operand⟩, _ =>
    refine resolve6809_row (paged := true) (op := op) (pageBytes_paged page _) rfl ?_ hoperand ?_
    · exact fun pb bs h => by simp only [isBigEndian, h]; rfl
    · exact (List.length_append).trans (congrArg (· + _) rfl)

theorem templateZ80_formBytes (hreads : profileReads .pZ80 f.lead = true) (hopens : leadOpens f.lead = true) :
    templateZ80 referenceTZ80 (rawOf (formBytes f)) (formBytes f).length = some (rowTemplate (rowText f.lead) f) :=
  templateZ80_row hreads hopens f.operand (operandBytes (isBigEndian f.lead) f.operand) (by simp [formBytes])

theorem resolves_z80 (hreads : profileReads .pZ80 f.lead = true) (hfits : formFits f = true) : RowResolves .pZ80 f := by
  obtain ⟨hopens, hoperand⟩ := Bool.and_eq_true_iff.mp hfits
  obtain ⟨lead, operand⟩ := f
  have hmode : rowMode (rowText lead) ⟨lead, operand⟩ = .mz80Template := by
    match lead, hreads with
    | .z80 _, _ | .cb _, _ | .ed _, _ | .xy _ _, _ | .xyCb _ _ _, _ => rfl
  refine ⟨?_, fun h => absurd (hmode.symm.trans h) nofun⟩
  rw [hmode]
  exact (resolveZ80_of_template (templateZ80_formBytes hreads hopens)).trans
    (congrArg (fun k => some (AddressingMode.mz80Template, k)) (rowTemplate_length hreads hoperand))

theorem rowResolves (hreads : profileReads p f.lead = true) (hpost : isPostbyte f.lead = false)
    (hfits : formFits f = true) : RowResolves p f := by
  obtain ⟨_, hoperand⟩ := Bool.and_eq_true_iff.mp hfits
  match p, f, hreads with
  | .p6502, ⟨.mos6502 .nmos op, operand⟩, _ | .p65C02, ⟨.mos6502 .cmos op, operand⟩, _ =>
    obtain ⟨hanswer, hvalid⟩ := resolve6502_row hoperand
    exact ⟨hanswer, fun h => absurd h hvalid⟩
  | .p6800, ⟨.m6800 op, operand⟩, _ =>
    obtain ⟨hanswer, hvalid⟩ := resolve6800_row hoperand
    exact ⟨hanswer, fun h => absurd h hvalid⟩
  | .p6809, f, hreads => exact resolves_6809 hreads hpost hfits
  | .p6809E, f, hreads => exact resolves_6809 (profileReads_p6809E f.lead ▸ hreads) hpost hfits
  | .pZ80, f, hreads => exact resolves_z80 hreads hfits

/-! ## Renderings -/

theorem mnemonic6809_row (hreads : profileReads .p6809 f.lead = true) (hpost : isPostbyte f.lead = false)
    (hopens : leadOpens f.lead = true) : mnemonic6809 referenceParameters (rawOf (formBytes f)) = rowText f.lead := by
  match f, hreads with
  | ⟨.m6809 op, operand⟩, _ => exact if_pos (pageBytes_m6809 hopens _)
  | ⟨.paged page op, operand⟩, _ =>
    have hpaged : pageBytes (rawOf (formBytes ⟨.paged page op, operand⟩)) ≠ 0 := by
      rw [show pageBytes (rawOf (formBytes ⟨.paged page op, operand⟩)) = 1 from pageBytes_paged page _]
      decide
    exact if_neg hpaged

theorem format6809_row (hreads : profileReads .p6809 f.lead = true) (hpost : isPostbyte f.lead = false)
    (hopens : leadOpens f.lead = true) (a : Address) :
    format .p6809 referenceParameters (rowFetched (rowText f.lead) f a) =
      rowRendering (rowText f.lead) f (rawOf (formBytes f)) a (formBytes f).length := by
  have hmnemonic := mnemonic6809_row hreads hpost hopens
  have hformat : format .p6809 referenceParameters (rowFetched (rowText f.lead) f a) =
      format6809 referenceParameters (mnemonic6809 referenceParameters (rawOf (formBytes f)))
        (rowMode (rowText f.lead) f) (rawOf (formBytes f)) a (formBytes f).length := rfl
  rw [hformat, hmnemonic]
  match f, hreads with
  | ⟨.m6809 _, _⟩, _ | ⟨.paged _ _, _⟩, _ => rfl

theorem formatZ80_of_template {abs : Bool} {table : Table} {raw : RawBytes} {n : Nat} {tp : Z80Template} {a : Address}
    (h : templateZ80 table raw n = some tp) : formatZ80 abs table raw n a = formatTemplate abs tp raw a := by
  rw [formatZ80, h]

theorem formatZ80_row (hreads : profileReads .pZ80 f.lead = true) (hopens : leadOpens f.lead = true) (a : Address) :
    format .pZ80 referenceParameters (rowFetched (rowText f.lead) f a) =
      rowRendering (rowText f.lead) f (rawOf (formBytes f)) a (formBytes f).length := by
  have hformat : format .pZ80 referenceParameters (rowFetched (rowText f.lead) f a) =
      formatTemplate false (rowTemplate (rowText f.lead) f) (rawOf (formBytes f)) a :=
    formatZ80_of_template (templateZ80_formBytes hreads hopens)
  rw [hformat]
  match f, hreads with
  | ⟨.z80 _, _⟩, _ | ⟨.cb _, _⟩, _ | ⟨.ed _, _⟩, _ | ⟨.xy _ _, _⟩, _ | ⟨.xyCb _ _ _, _⟩, _ => rfl

/-- The formatter of a profile, on the bytes of a row that it reads, renders the row's string. -/
theorem format_row (hreads : profileReads p f.lead = true) (hpost : isPostbyte f.lead = false)
    (hopens : leadOpens f.lead = true) (a : Address) :
    format p referenceParameters (rowFetched (rowText f.lead) f a) =
      rowRendering (rowText f.lead) f (rawOf (formBytes f)) a (formBytes f).length := by
  match p, f, hreads with
  | .p6502, ⟨.mos6502 .nmos _, _⟩, _ | .p65C02, ⟨.mos6502 .cmos _, _⟩, _ | .p6800, ⟨.m6800 _, _⟩, _ => rfl
  | .p6809, f, hreads => exact format6809_row hreads hpost hopens a
  | .p6809E, f, hreads => exact format6809_row (profileReads_p6809E f.lead ▸ hreads) hpost hopens a
  | .pZ80, f, hreads => exact formatZ80_row hreads hopens a

/-- A row decoded whole from its bytes is the row's own session. -/
theorem decoded_formBytes (hreads : profileReads p f.lead = true) (hpost : isPostbyte f.lead = false)
    (hopens : leadOpens f.lead = true) (a : Address) :
    Session.decoded p referenceParameters a (formBytes f) (rowMode (rowText f.lead) f) =
      rowSession (rowText f.lead) f a := by
  have hrendering : (rowFetched (rowText f.lead) f a).rendering p referenceParameters =
      rowOutput (rowText f.lead) f a := by
    rw [Session.rendering, format_row hreads hpost hopens]
    rfl
  exact congrArg (rowFetched (rowText f.lead) f a).finish hrendering

/-! ## The statement -/

/-- A served row does what its bytes do when they are fed one by one (R117). -/
theorem feedForm_served {s : State} (hs : s.session.state ≠ .fetching) (hserved : rowServed f s = true)
    (hpost : isPostbyte f.lead = false) :
    feedForm f s = .next { s with session := rowSession (rowText f.lead) f s.feedAddress, reply := rowReply f } := by
  obtain ⟨⟨href, hreads⟩, hfits⟩ : (isReference s.parameters = true ∧ profileReads s.profile f.lead = true) ∧
    formFits f = true := by simpa [rowServed] using hserved
  obtain ⟨hopens, _⟩ := Bool.and_eq_true_iff.mp hfits
  have hparameters : parametersOf s.parameters = referenceParameters := by
    cases hp : s.parameters with
    | reference => rfl
    | custom t => simp [hp, isReference] at href
  obtain ⟨hwhole, hinvalid⟩ := rowResolves hreads hpost hfits
  have hlen := formBytes_length_le f
  have hsession := decoded_formBytes hreads hpost hopens s.feedAddress
  have hdecodes : Decodes s.profile (parametersOf s.parameters) (formBytes f) (rowMode (rowText f.lead) f) :=
    hparameters ▸ decodes_of_whole hwhole hinvalid
  unfold feedForm formCommands
  rw [← hparameters] at hsession
  cases hbytes : formBytes f with
  | nil => exact absurd hbytes (formBytes_ne_nil f)
  | cons b bs =>
    rw [rowReply_eq, ← hsession]
    rw [hbytes] at hdecodes hlen ⊢
    exact runCommands_decodes s.feedAddress hs hlen hdecodes

/-- Settles O26: a row runs the string of its lead; served, that is what feeding its bytes gives, and where it is
refused or not served, feeding is its meaning. -/
theorem rowIsItsCommands : Obligations.RowIsItsCommands := by
  intro i f s b bs hw hf hpost hbytes
  obtain ⟨rfl, _⟩ := wf_row hw hf
  rw [encode_instrOf] at hbytes
  have hfeed : feedForm f s = runCommands (.begin s.feedAddress b :: bs.map .feed) s := by
    rw [feedForm, formCommands, hbytes]
  rw [exec_instrOf f hpost s, ← hfeed]
  obtain ⟨hs, hrow⟩ | ⟨hs, hserved, hrow⟩ | ⟨_, _, hrow⟩ := runRow_cases (rowText f.lead) f s
  · obtain ⟨_, hfed⟩ | ⟨hno, _⟩ := feedForm_cases f s
    · rw [hrow, hfed]
    · exact absurd hs hno
  · rw [hrow, feedForm_served hs hserved hpost]
  · exact hrow

end Sys2Proof.Machine
end

