-- ==== Sys2Proof/Proofs/Commands.lean ====
section
/-! SUPPORT. The three commands and the pass, each in all its cases (R110 to R114). -/

namespace Sys2Proof.Machine

variable {p : Profile} {t : Parameters} {x y : Session}

/-! ## The pass -/

/-- The session that R113 describes, with a known length or the length the resolver gives now, is the one that the first
half of the pass makes. -/
theorem resolved_eq_some
    (h : y = x ∧ x.bytesRequired ≠ 0 ∨ ∃ mode n, x.bytesRequired = 0 ∧
      resolve p t x.rawBytes x.bytesFetched = some (mode, n) ∧ y = { x with addressingMode := mode, bytesRequired := n }) :
    x.resolved p t = some y := by
  unfold Session.resolved
  obtain ⟨rfl, hknown⟩ | ⟨mode, n, hunknown, hanswer, rfl⟩ := h
  · exact if_neg hknown
  · rw [if_pos hunknown, hanswer, Option.map_some]

theorem pass_of_declines (hunknown : x.bytesRequired = 0) (hnone : resolve p t x.rawBytes x.bytesFetched = none) :
    x.pass p t = x := by
  rw [Session.pass, Session.resolved, if_pos hunknown, hnone, Option.map_none]

theorem pass_of_short (hy : x.resolved p t = some y) (h : y.bytesFetched ≠ y.bytesRequired) : x.pass p t = y := by
  rw [Session.pass, hy]
  exact if_neg h

theorem pass_of_last (hy : x.resolved p t = some y) (h : y.bytesFetched = y.bytesRequired) :
    x.pass p t = y.finish (y.rendering p t) := by
  rw [Session.pass, hy]
  exact if_pos h

/-- The end of the pass, its annotation spelled out (R113). -/
theorem finish_eq (body : Text) (target : Option TargetAddress) (x : Session) :
    x.finish ⟨body, target⟩ = { x.withTarget target with
      outputString := (if (x.withTarget target).resolvedTargetValid then
          body ++ ascii " <" ++ hex4 (x.withTarget target).resolvedTargetAddress ++ ascii ">"
        else body).take 28
      state := .complete } := by
  simp only [Session.finish, Session.completeWith, annotated, annotation, maxString, List.append_assoc]

/-! ## The reply of `continue` -/

theorem leftFetching_of_not_fetching (y : Session) (hx : x.state ≠ .fetching) : leftFetching x y = false := by
  simp [leftFetching, hx]

theorem leftFetching_of_fetching (y : Session) (hx : x.state = .fetching) :
    leftFetching x y = (y.state == .complete) := by
  simp [leftFetching, hx]

/-! ## The statements -/

/-- Settles O2. -/
theorem beginStartsAnInstruction : Obligations.BeginStartsAnInstruction := by
  intro address firstByte s hs
  rw [exec_cmdBegin, runCommand, if_neg hs]
  rfl

/-- Settles O3. -/
theorem beginInFetchingIsRefused : Obligations.BeginInFetchingIsRefused := by
  intro address firstByte s hs
  rw [exec_cmdBegin, runCommand, if_pos hs]

/-- Settles O4: one arm of `feed_cases` for each case. -/
theorem continueInThreeCases : Obligations.ContinueInThreeCases := by
  rintro byte s x rfl
  rw [exec_cmdContinue, runCommand_feed]
  obtain ⟨hs, hfeed⟩ | ⟨hs, hfull, hfeed⟩ | ⟨hs, hroom, hfeed⟩ :=
    feed_cases s.profile (parametersOf s.parameters) byte s.session
  · rw [if_pos hs, hfeed, leftFetching_of_not_fetching _ hs]
  · rw [if_neg (not_not.mpr hs), if_pos hfull, hfeed, leftFetching_of_fetching _ hs]
    rfl
  · rw [if_neg (not_not.mpr hs), if_neg hroom, hfeed, leftFetching_of_fetching _ hs]
    rfl

/-- Settles O5. -/
theorem completeReadsTheOutput : Obligations.CompleteReadsTheOutput := fun _ => rfl

/-- Settles O6: the session `y` of the statement is what `Session.resolved` answers, and `z` is `y` with the target. -/
theorem passInThreeCases : Obligations.PassInThreeCases := by
  intro p t x
  refine ⟨pass_of_declines, fun y h => ?_⟩
  have hy := resolved_eq_some h
  refine ⟨pass_of_short hy, fun hlast body target z hrendering hz => ?_⟩
  have htarget : y.withTarget target = z := by
    rw [hz]
    cases target <;> rfl
  have hrendered : y.rendering p t = ⟨body, target⟩ := hrendering.symm
  rw [pass_of_last hy hlast, hrendered, finish_eq, htarget]

end Sys2Proof.Machine
end

