-- ==== Sys2Proof/Proofs/InFlight.lean ====
section
/-! SUPPORT. What an instruction keeps of the session it meets, and what an instruction in flight can turn into (R22, R24,
R25, R115, R320). -/

namespace Sys2Proof.Machine

variable {p : Profile} {t : Parameters} {x y z : Session} {s s' : State}

/-- What feeding bytes keeps: the address stands, a known length stands, no byte is uncounted, and the only new state is
`Complete`. -/
structure Continues (x y : Session) : Prop where
  address : y.instructionAddress = x.instructionAddress
  required : x.bytesRequired ≠ 0 → y.bytesRequired = x.bytesRequired
  fetched : x.bytesFetched ≤ y.bytesFetched
  state : y.state = x.state ∨ y.state = .complete

theorem Continues.refl (x : Session) : Continues x x := ⟨rfl, fun _ => rfl, le_rfl, .inl rfl⟩

theorem Continues.trans (h : Continues x y) (h' : Continues y z) : Continues x z where
  address := h'.address.trans h.address
  required hx := (h'.required (h.required hx ▸ hx)).trans (h.required hx)
  fetched := h.fetched.trans h'.fetched
  state := h'.state.elim (fun hz => h.state.imp hz.trans hz.trans) .inr

/-! ## The pass and `continue` -/

theorem continues_append (b : Byte) (x : Session) : Continues x (x.append b) :=
  ⟨rfl, fun _ => rfl, Nat.le_succ _, .inl rfl⟩

theorem continues_completeWith (text : Text) (x : Session) : Continues x (x.completeWith text) :=
  ⟨rfl, fun _ => rfl, le_rfl, .inr rfl⟩

theorem continues_finish (r : Rendering) (x : Session) : Continues x (x.finish r) :=
  ⟨finish_address x r, fun _ => finish_required x r, (finish_fetched x r).ge, .inr rfl⟩

/-- The resolver is asked for a length that is not known yet (R25). -/
theorem continues_resolved (h : x.resolved p t = some y) : Continues x y := by
  obtain ⟨_, rfl⟩ | ⟨mode, n, hunknown, _, rfl⟩ := resolved_cases h
  · exact .refl _
  · exact ⟨rfl, fun hx => absurd hunknown hx, le_rfl, .inl rfl⟩

theorem continues_pass (p : Profile) (t : Parameters) (x : Session) : Continues x (x.pass p t) := by
  obtain ⟨_, hx⟩ | ⟨y, hy, _, hx⟩ | ⟨y, hy, _, hx⟩ := pass_cases p t x <;> rw [hx]
  · exact .refl x
  · exact continues_resolved hy
  · exact (continues_resolved hy).trans (continues_finish _ y)

theorem continues_feed (p : Profile) (t : Parameters) (b : Byte) (x : Session) : Continues x (x.feed p t b) := by
  obtain ⟨_, hx⟩ | ⟨_, _, hx⟩ | ⟨_, _, hx⟩ := feed_cases p t b x <;> rw [hx]
  · exact .refl x
  · exact continues_completeWith _ x
  · exact (continues_append b x).trans (continues_pass p t _)

theorem continues_feedAll (p : Profile) (t : Parameters) (bs : List Byte) (x : Session) :
    Continues x (feedAll p t bs x) :=
  feedAll_keeps (P := Continues x) (fun y b hy => hy.trans (continues_feed p t b y)) bs (.refl x)

/-- A session that was begun, and any bytes fed to it. -/
theorem continues_begun (p : Profile) (t : Parameters) (a : Address) (b : Byte) (bs : List Byte) :
    Continues (Session.started a b) (feedAll p t bs ((Session.started a b).pass p t)) :=
  (continues_pass p t _).trans (continues_feedAll p t bs _)

/-! ## Instructions -/

/-- No session that an instruction leads to is `Idle`, unless the session at hand is (R115). -/
theorem Reaches.idle (h : Reaches p t x y) (hy : y.state = .idle) : x.state = .idle := by
  cases h with
  | fed bs =>
    obtain hsame | hdone := (continues_feedAll p t bs x).state
    · exact hsame.symm.trans hy
    · exact nomatch hy.symm.trans hdone
  | begun a b bs =>
    obtain hsame | hdone := (continues_begun p t a b bs).state
    · exact nomatch hy.symm.trans hsame
    · exact nomatch hy.symm.trans hdone
  | row c text f a => exact nomatch hy

/-- In `Fetching` the instructions with a next state feed bytes to the session in flight, or none: a row and `begin` are
refused there (R114). -/
theorem exec_feeds {i : Instr} (hs : s.session.state = .fetching) (h : exec i s = .next s') :
    ∃ bs, s'.session = feedAll s.profile (parametersOf s.parameters) bs s.session := by
  obtain ⟨text, f, _, hi⟩ | ⟨f, _, hi⟩ | ⟨c, _, hi⟩ := exec_cases i s <;> rw [hi] at h
  · rw [runRow, if_pos hs] at h
    cases h
  · obtain ⟨r, hr⟩ := feedPostbyte_next f s
    rw [hr] at h
    cases h
    exact ⟨formBytes f, rfl⟩
  · obtain ⟨_, _, _, _, hc⟩ | ⟨_, _, _, hidle, _⟩ | ⟨b, _, hc⟩ | ⟨_, hc⟩ := runCommand_cases c s
    · rw [hc] at h
      cases h
    · exact absurd hs hidle
    · rw [hc] at h
      cases h
      exact ⟨[b], rfl⟩
    · rw [hc] at h
      cases h
      exact ⟨[], rfl⟩

/-- Settles O7. -/
theorem inFlightIsSteady : Obligations.InFlightIsSteady := by
  intro i s s' h
  constructor
  · obtain ⟨x, r, hreach, rfl⟩ := exec_advances h
    exact hreach.idle
  · intro hs
    obtain ⟨bs, hbs⟩ := exec_feeds hs h
    have hcont := continues_feedAll s.profile (parametersOf s.parameters) bs s.session
    rw [← hbs] at hcont
    exact ⟨hcont.address, hcont.required, hs ▸ hcont.state, hcont.fetched⟩

end Sys2Proof.Machine
end

