-- ==== Sys2Proof/Proofs/Completion.lean ====
section
/-! SUPPORT. How many bytes a session can be in flight for (R83, R116), and what a served row leaves behind (R312). -/

namespace Sys2Proof.Machine

variable {p : Profile} {t : Parameters} {x : Session} {raw : RawBytes} {n k : Nat} {mode : AddressingMode}

/-! ## Lengths under the reference tables -/

theorem templateWidth_le_of_shaped {text : Text} (h : operandPieces text ∈ shapedPieces) : templateWidth text ≤ 3 :=
  templateWidth_of_shaped h ▸ operandRoom_le _

theorem templateLength_reference_le {tp : Z80Template} (h : templateZ80 referenceTZ80 raw n = some tp) :
    templateLength tp ≤ longestInstr := by
  obtain ⟨op, rfl⟩ | ⟨op, rfl⟩ | ⟨r, op, rfl⟩ | ⟨r, op, rfl⟩ | ⟨op, rfl⟩ := templateZ80_cases h
  · exact Nat.add_le_add_left ((cbTemplate_width op).trans_le (Nat.zero_le 3)) 2
  · exact Nat.add_le_add_left (templateWidth_le_of_shaped (edTemplate_shaped op)) 2
  · exact show 4 ≤ 5 by decide
  · exact Nat.add_le_add_left (templateWidth_le_of_shaped (xyTemplate_shaped r op)) 2
  · have hwidth := templateWidth_le_of_shaped (referenceTZ80_shaped _ (tableAt_mem _ op)).1
    exact (Nat.add_le_add_left hwidth 1).trans (by decide)

/-- With the reference tables no length is above five, but that of an `Invalid` postbyte, which is the count of the bytes
at hand (R83, R191). -/
theorem resolve_reference_length_le (h : resolve p referenceParameters raw n = some (mode, k)) :
    k ≤ longestInstr ∨ k = n := by
  cases p with
  | p6502 | p65C02 =>
    have hk := congrArg Prod.snd (Option.some.inj h)
    exact .inl (hk.symm.trans_le ((classify6502_length_le _).trans (by decide)))
  | p6800 =>
    have hk := congrArg Prod.snd (Option.some.inj h)
    exact .inl (hk.symm.trans_le ((length6800_le _).trans (by decide)))
  | p6809 | p6809E =>
    have hpage := pageBytes_le_one raw
    have hextra := extra6809_le mode
    refine (resolve6809_length_cases h).imp_left fun hk => ?_
    simp only [longestInstr]
    omega
  | pZ80 =>
    obtain ⟨tp, htp, hk⟩ := Option.map_eq_some_iff.mp h
    cases hk
    exact .inl (templateLength_reference_le htp)

/-! ## Bytes in flight -/

/-- A session still in flight has counted every byte that was fed to it (R24, R111). -/
theorem feedAll_fetched (bs : List Byte) (h : (feedAll p t bs x).state = .fetching) :
    (feedAll p t bs x).bytesFetched = x.bytesFetched + bs.length := by
  induction bs generalizing x with
  | nil => rfl
  | cons b bs ih =>
    have hbusy {y : Session} (hy : y.state ≠ .fetching) (hfeed : x.feed p t b = y) : False := by
      rw [feedAll, hfeed, feedAll_of_not_fetching bs hy] at h
      exact hy h
    obtain ⟨hs, hfeed⟩ | ⟨_, _, hfeed⟩ | ⟨_, _, hfeed⟩ := feed_cases p t b x
    · exact (hbusy hs hfeed).elim
    · exact (hbusy (by simp) hfeed).elim
    · rw [feedAll, ih h, hfeed, pass_fetched, append_fetched, List.length_cons]
      omega

/-- A session in flight holds fewer bytes than any bound of four or more on the lengths that its resolver can give. -/
theorem SessionInv.fetched_lt {bound : Nat} (h : SessionInv p t x) (hs : x.state = .fetching) (hfour : 4 ≤ bound)
    (hbound : ∀ mode k, resolve p t x.rawBytes x.bytesFetched = some (mode, k) → k ≤ bound ∨ k = x.bytesFetched) :
    x.bytesFetched < bound := by
  by_contra hge
  by_cases hr : x.bytesRequired = 0
  · exact resolve_ne_none p t x.rawBytes (by omega) (h.unknown_declines hs hr)
  · have hshort := (h.fetching_short hs).resolve_left hr
    have hk := hbound _ _ (h.known_stands hs hr)
    omega

theorem fetched_lt_of_wellFormed (hw : WellFormed p t) (h : SessionInv p t x) (hs : x.state = .fetching) :
    x.bytesFetched < maxBytes := by
  obtain ⟨hpos, hle⟩ := h.busy_counts (by simp [hs])
  exact h.fetched_lt hs (by decide) fun _ _ hr => .inl (hw.length_le hpos hle hr)

theorem fetched_lt_of_reference (h : SessionInv p referenceParameters x) (hs : x.state = .fetching) :
    x.bytesFetched < longestInstr :=
  h.fetched_lt hs (by decide) fun _ _ hr => resolve_reference_length_le hr

/-- A session that was begun and fed bytes is complete, or in flight with all of them. -/
theorem begun_complete_or (p : Profile) (t : Parameters) (a : Address) (b : Byte) (bs : List Byte) :
    (feedAll p t bs ((Session.started a b).pass p t)).state = .complete ∨
    (feedAll p t bs ((Session.started a b).pass p t)).state = .fetching ∧
      (feedAll p t bs ((Session.started a b).pass p t)).bytesFetched = 1 + bs.length := by
  obtain hflying | hdone := (continues_begun p t a b bs).state
  · have hcount := feedAll_fetched bs hflying
    rw [pass_fetched, started_fetched] at hcount
    exact .inr ⟨hflying, hcount⟩
  · exact .inl hdone

theorem begun_inv (hw : WellFormed p t) (a : Address) (b : Byte) (bs : List Byte) :
    SessionInv p t (feedAll p t bs ((Session.started a b).pass p t)) :=
  feedAll_keeps (fun _ b => feed_inv hw b) bs ((started_loaded p t a b).pass_inv hw)

/-- A run of `begin` and `continue` from outside `Fetching` answers a next state. -/
theorem runCommands_begin (a : Address) (b : Byte) (bs : List Byte) {s : State} (hs : s.session.state ≠ .fetching) :
    ∃ r, runCommands (.begin a b :: bs.map .feed) s = .next { s with
      session := feedAll s.profile (parametersOf s.parameters) bs
        ((Session.started a b).pass s.profile (parametersOf s.parameters))
      reply := r } := by
  rw [runCommands_cons, runCommand, if_neg hs]
  exact runCommands_feed bs _

/-- Settles O17: both readings give well-formed tables, so the session meets the invariant, and they bound the bytes that
it can hold in flight by eight and by five. -/
theorem completionIsBounded : Obligations.CompletionIsBounded := by
  intro a b bs s hs hbytes
  obtain ⟨r, hr⟩ := runCommands_begin a b bs hs
  obtain ⟨hw, hlt⟩ : WellFormed s.profile (parametersOf s.parameters) ∧
      ∀ x, SessionInv s.profile (parametersOf s.parameters) x → x.state = .fetching → x.bytesFetched < 1 + bs.length := by
    obtain ⟨hw, hseven⟩ | ⟨href, hfour⟩ := hbytes
    · refine ⟨hw, fun x hx hf => (fetched_lt_of_wellFormed hw hx hf).trans_le ?_⟩
      simp only [maxBytes]
      omega
    · rw [href]
      refine ⟨(referenceParametersAreWellFormed s.profile).2, fun x hx hf => (fetched_lt_of_reference hx hf).trans_le ?_⟩
      simp only [longestInstr]
      omega
  have hinv := begun_inv hw a b bs
  have hcomplete := (begun_complete_or s.profile (parametersOf s.parameters) a b bs).resolve_right
    fun ⟨hflying, hcount⟩ => (hlt _ hinv hflying).ne hcount
  exact ⟨_, hr, hcomplete, hinv.complete_iff_output.mp hcomplete, hinv.output_fits⟩

/-! ## Served rows -/

theorem isEntry_reference (p : Profile) : ∀ entry ∈ profileEntries p referenceParameters, isEntry entry = true :=
  isEntry_of_entriesFit (entriesFit_reference p)

/-- Every row but a postbyte row has a string to run. -/
theorem rowText_ne_nil {lead : Lead} (h : isPostbyte lead = false) : rowText lead ≠ [] := by
  match lead, h with
  | .mos6502 .nmos op, _ => exact tableAt_ne_nil (isEntry_reference .p6502) op
  | .mos6502 .cmos op, _ => exact tableAt_ne_nil (isEntry_reference .p65C02) op
  | .m6800 op, _ => exact tableAt_ne_nil (isEntry_reference .p6800) op
  | .m6809 op, _ => exact tableAt_ne_nil (List.forall_mem_append.mp (isEntry_reference .p6809)).1 op
  | .paged page op, _ => exact lookup6809X_ne_nil (List.forall_mem_append.mp (isEntry_reference .p6809)).2 _
  | .z80 op, _ => exact tableAt_ne_nil (isEntry_reference .pZ80) op
  | .cb op, _ => exact cbTemplate_ne_nil op
  | .ed op, _ => exact edTemplate_ne_nil op
  | .xy reg op, _ => exact xyTemplate_ne_nil (isEntry_reference .pZ80) reg op
  | .xyCb reg _ op, _ => exact rewriteHL_ne_nil (cbTemplate_ne_nil op) reg

/-- A served row runs its own string. -/
theorem runRow_of_serves {text : Text} {f : Form} {s : State} (h : Serves s f.lead) (hfits : formFits f = true) :
    runRow text f s = .next { s with session := rowSession text f s.feedAddress, reply := rowReply f } := by
  obtain ⟨hs, href, hreads⟩ := h
  have hserved : rowServed f s = true := by simp [rowServed, isReference, href, hreads, hfits]
  rw [runRow, if_neg hs, if_pos hserved]

/-- The session of a row has the row's bytes, all counted, from the address on. -/
theorem rowSession_counts (text : Text) (f : Form) (a : Address) :
    (rowSession text f a).state = .complete ∧ (rowSession text f a).instructionAddress = a ∧
    (rowSession text f a).bytesFetched = (formBytes f).length ∧
    (rowSession text f a).bytesRequired = (formBytes f).length :=
  ⟨rfl, finish_address _ _, finish_fetched _ _, finish_required _ _⟩

/-- Settles O29. -/
theorem everyServedRowCompletes : Obligations.EveryServedRowCompletes := by
  intro i f s hw hf hserves hpost
  obtain ⟨rfl, hfits⟩ := wf_row hw hf
  have hrun := (exec_instrOf f hpost s).trans (runRow_of_serves hserves hfits)
  obtain ⟨hdone, haddress, hfetched, hrequired⟩ := rowSession_counts (rowText f.lead) f s.feedAddress
  have hinv := rowSession_inv s.profile (parametersOf s.parameters) (rowText_ne_nil hpost) f s.feedAddress
  rw [encode_instrOf]
  exact ⟨_, hrun, ⟨rfl, rfl, rfl, rfl⟩, hdone, haddress, hfetched, hrequired,
    hinv.complete_iff_output.mp hdone, hinv.output_fits⟩

end Sys2Proof.Machine
end

