-- ==== Sys2Proof/Proofs/ServedRows.lean ====
section
/-! SUPPORT. What a served row answers, whatever its family: the session decoded from its bytes, with what the family's
formatter renders and nothing cut off (R87 W2, R113). -/

namespace Sys2Proof.Machine

variable {i : Instr} {f : Form} {s : State}

/-- The end of the pass on a session that holds all its bytes: mode and bytes stay, target and text are rendered. -/
theorem finish_fetched_eq (a : Address) (bs : List Byte) (mode : AddressingMode) (r : Rendering) :
    (Session.fetched a bs mode).finish r = decodedSession a bs mode r.target (r.withAnnotation.take maxString) := by
  obtain ⟨body, _ | v⟩ := r <;> rfl

/-- The profile that reads a row renders, from the row's bytes, what the row renders from its own string. -/
theorem rendering_rowFetched {p : Profile} (hreads : profileReads p f.lead = true) (hpost : isPostbyte f.lead = false)
    (hopens : leadOpens f.lead = true) (a : Address) :
    (rowFetched (rowText f.lead) f a).rendering p referenceParameters = rowOutput (rowText f.lead) f a := by
  rw [Session.rendering, format_row hreads hpost hopens]
  rfl

/-- No row of the reference tables renders more than 28 characters, annotation included (R87 W2). -/
theorem rowOutput_withAnnotation_length_le {p : Profile} (hreads : profileReads p f.lead = true)
    (hpost : isPostbyte f.lead = false) (hfits : formFits f = true) (a : Address) :
    (rowOutput (rowText f.lead) f a).withAnnotation.length ≤ maxString := by
  obtain ⟨hopens, _⟩ := Bool.and_eq_true_iff.mp hfits
  have hwell := (referenceParametersAreWellFormed p).2
  have hfull := hwell.w2 a (formBytes f) _ (List.length_pos_iff.mpr (formBytes_ne_nil f)) (formBytes_length_le f)
    (rowResolves hreads hpost hfits).1
  rwa [fullText_eq, ← rowFetched, rendering_rowFetched hreads hpost hopens] at hfull

/-- A served row completes with its mode, and with the target and the annotated text that it renders (R113). -/
theorem exec_served (hw : i.wf = true) (hf : instrForm i = some f) (hserves : Serves s f.lead)
    (hpost : isPostbyte f.lead = false) :
    exec i s = rowDone s f (rowMode (rowText f.lead) f) (rowOutput (rowText f.lead) f s.feedAddress).target
      (rowOutput (rowText f.lead) f s.feedAddress).withAnnotation := by
  obtain ⟨rfl, hfits⟩ := wf_row hw hf
  have ⟨_, _, hreads⟩ := hserves
  have hlen := rowOutput_withAnnotation_length_le hreads hpost hfits s.feedAddress
  rw [exec_instrOf f hpost, runRow_of_serves hserves hfits, rowSession, rowFetched, finish_fetched_eq,
    List.take_of_length_le hlen, rowDone]

end Sys2Proof.Machine
end

