-- ==== Sys2Proof/Proofs/Mos6502Rows.lean ====
section
/-! SUPPORT. The rows of the 6502 and the 65C02: the operand of a row says which marker its template holds, and the mode
says what stands in the marker's place (R142 to R146). -/

namespace Sys2Proof.Machine

variable {i : Instr} {s : State} {variant : Variant65} {op b : Byte} {w : BitVec 16} {operand : Operand} {text : Text}
  {mode : AddressingMode}

/-! ## Modes -/

/-- A template whose row takes no operand has no marker (R142, R143). -/
theorem classify6502_of_none (h : operandFits (kindOfMode (classify6502 text).1) .none = true) :
    (classify6502 text).1 = .m65Implied := by
  unfold classify6502 at h ⊢
  split_ifs at h ⊢
  · cases h
  · cases h
  · cases h
  · rfl

/-- A template whose row takes a byte has the one-byte marker or else the relative one (R142, R144, R146). -/
theorem classify6502_of_byte (h : operandFits (kindOfMode (classify6502 text).1) (.byte b) = true) :
    (classify6502 text).1 = if contains text markerByte then .m65Byte else .m65Rel := by
  unfold classify6502 at h ⊢
  split_ifs at h ⊢
  · cases h
  · cases h
  · rfl
  · rfl
  · cases h

/-- A template whose row takes a word has the two-byte marker (R142, R145). -/
theorem classify6502_of_word (h : operandFits (kindOfMode (classify6502 text).1) (.word w) = true) :
    (classify6502 text).1 = .m65Word := by
  unfold classify6502 at h ⊢
  split_ifs at h ⊢
  · rfl
  · cases h
  · cases h
  · cases h

/-! ## Renderings -/

/-- The first stream byte is the low byte of the word, and an absolute operand is no target (R10, R145). -/
theorem format6502_word (text : Text) (op : Byte) (w : BitVec 16) (a : Address) (n : Nat) :
    format6502 false text .m65Word (rawOf (op :: operandBytes false (.word w))) a n =
      plain (replaceFirst text markerWord (hex4 w)) := by
  have hword : le16 (w.extractLsb' 0 8) (w.extractLsb' 8 8) = w := word_append w
  exact congrArg (fun v => plain (replaceFirst text markerWord (hex4 v))) hword

/-- The offset is added to the address behind the two bytes of the row (R57, R146). -/
theorem format6502_rel (text : Text) (op b : Byte) (a : Address) :
    format6502 false text .m65Rel (rawOf (op :: operandBytes false (.byte b))) a 2 =
      ⟨replaceFirst text markerRel (sdec b.toInt), some (BitVec.ofInt 16 ((a.toNat : Int) + 2 + b.toInt))⟩ := by
  rw [add_assoc]
  rfl

/-! ## Rows -/

/-- The operand of a well-formed row is of the shape that its template's mode asks for. -/
theorem operandFits_of_mos6502 (hw : i.wf = true) (hf : instrForm i = some ⟨.mos6502 variant op, operand⟩) :
    operandFits (kindOfMode (classify6502 (rowText (.mos6502 variant op))).1) operand = true := by
  obtain ⟨_, hfits⟩ := wf_row hw hf
  exact (Bool.and_eq_true_iff.mp hfits).2

/-- A served 6502 row completes with the mode of its template, and with what the formatter makes of it in that mode. -/
theorem exec_mos6502 (hw : i.wf = true) (hf : instrForm i = some ⟨.mos6502 variant op, operand⟩)
    (hserves : Serves s (.mos6502 variant op)) (hmode : (classify6502 (rowText (.mos6502 variant op))).1 = mode)
    (hvalid : mode ≠ .invalid) {r : Rendering}
    (hr : format6502 false (rowText (.mos6502 variant op)) mode (rawOf (op :: operandBytes false operand)) s.feedAddress
      ((operandBytes false operand).length + 1) = r) :
    exec i s = rowDone s ⟨.mos6502 variant op, operand⟩ mode r.target r.withAnnotation := by
  subst hmode
  have houtput : rowOutput (rowText (.mos6502 variant op)) ⟨.mos6502 variant op, operand⟩ s.feedAddress = r :=
    (if_neg hvalid).trans hr
  have hexec := exec_served hw hf hserves rfl
  rwa [houtput] at hexec

/-- Settles O30. -/
theorem mos6502ImpliedRow : Obligations.Mos6502ImpliedRow := by
  intro i s variant op hw hf hserves
  exact exec_mos6502 hw hf hserves (classify6502_of_none (operandFits_of_mos6502 hw hf)) nofun rfl

/-- Settles O31. -/
theorem mos6502ByteRow : Obligations.Mos6502ByteRow := by
  intro i s variant op b hw hf hbyte hserves
  have hmode := (classify6502_of_byte (operandFits_of_mos6502 hw hf)).trans (if_pos hbyte)
  exact exec_mos6502 hw hf hserves hmode nofun rfl

/-- Settles O32. -/
theorem mos6502WordRow : Obligations.Mos6502WordRow := by
  intro i s variant op w hw hf hserves
  have hmode := classify6502_of_word (operandFits_of_mos6502 hw hf)
  exact ⟨rfl, exec_mos6502 hw hf hserves hmode nofun (format6502_word _ op w s.feedAddress _)⟩

/-- Settles O33: a row that takes a byte and has no one-byte marker has the relative one. -/
theorem mos6502RelativeRow : Obligations.Mos6502RelativeRow := by
  intro i s variant op b target hw hf hbyte hserves htarget
  have hmode := (classify6502_of_byte (operandFits_of_mos6502 hw hf)).trans (if_neg (Bool.eq_false_iff.mp hbyte))
  rw [exec_mos6502 hw hf hserves hmode nofun (format6502_rel _ op b s.feedAddress), ← htarget]
  simp only [Rendering.withAnnotation, annotation, markerRel, List.append_assoc]

end Sys2Proof.Machine
end

