-- ==== Sys2Proof/Proofs/M6800Rows.lean ====
section
/-! SUPPORT. The rows of the 6800: the opcode's range and its three exceptions give the mode (R161, R162), and the mode
says how the operand stands behind the mnemonic (R164 to R168). -/

namespace Sys2Proof.Machine

variable {i : Instr} {s : State} {op : Byte} {operand : Operand} {mode : AddressingMode}

/-! ## Modes -/

/-- The mode that the range of an opcode's high nibble gives, where the opcode is no exception (R161). -/
def rangeMode6800 (nibble : Nat) : AddressingMode :=
  match nibble with
  | 0x2 => .m68Relative
  | 0x6 | 0xA | 0xE => .m68Indexed
  | 0x7 | 0xB | 0xF => .m68Extended
  | 0x8 | 0xC => .m68Imm8
  | 0x9 | 0xD => .m68Direct
  | _ => .m68Inherent

/-- Relative at `0x8D`, a 16-bit immediate at `0x8E` and `0xCE`, and everywhere else the mode of the range (R161,
R162). -/
theorem mode6800_eq (op : Byte) : mode6800 standardImm16 op =
    if op = 0x8D then .m68Relative
    else if op ∈ standardImm16 then .m68Imm16
    else rangeMode6800 (highNibble op) := by
  simp only [mode6800, List.contains_iff_mem]
  rfl

/-- The exceptions lie in the immediate ranges (R162). -/
theorem exception6800_range : ∀ o ∈ 0x8D :: standardImm16, highNibble o ∈ [0x8, 0xC] := by decide

theorem mode6800_of_range (h : highNibble op ∉ [0x8, 0xC]) :
    mode6800 standardImm16 op = rangeMode6800 (highNibble op) := by
  have hop : op ∉ 0x8D :: standardImm16 := fun hop => h (exception6800_range op hop)
  obtain ⟨hbsr, himm⟩ := not_or.mp (mt List.mem_cons.mpr hop)
  rw [mode6800_eq, if_neg hbsr, if_neg himm]

/-- A range outside the immediate ones has one mode (R161). -/
theorem mode6800_of_mem {nibbles : List Nat} (h : highNibble op ∈ nibbles)
    (hrange : ∀ n ∈ nibbles, n ∉ [0x8, 0xC] ∧ rangeMode6800 n = mode) : mode6800 standardImm16 op = mode := by
  obtain ⟨hnot, hmode⟩ := hrange _ h
  rw [mode6800_of_range hnot, hmode]

/-- In the immediate ranges an opcode is `0x8D`, or one of the two with a word, or has a byte (R161, R162). -/
theorem mode6800_immediate (h : highNibble op ∈ [0x8, 0xC]) (hbsr : op ≠ 0x8D) :
    mode6800 standardImm16 op = if op ∈ standardImm16 then .m68Imm16 else .m68Imm8 := by
  have hmode : ∀ n ∈ [0x8, 0xC], rangeMode6800 n = .m68Imm8 := by decide
  rw [mode6800_eq, if_neg hbsr, hmode _ h]

/-- Only the inherent ranges hold rows without an operand (R161, R164). -/
theorem mode6800_of_none (h : operandFits (kindOfMode (mode6800 standardImm16 op)) .none = true) :
    highNibble op ∈ [0x0, 0x1, 0x3, 0x4, 0x5] ∧ mode6800 standardImm16 op = .m68Inherent := by
  have hrange : ∀ n < 16, operandFits (kindOfMode (rangeMode6800 n)) .none = true →
      n ∈ [0x0, 0x1, 0x3, 0x4, 0x5] ∧ rangeMode6800 n = .m68Inherent := by decide
  have hnibble : highNibble op < 16 := Nat.div_lt_of_lt_mul op.isLt
  rw [mode6800_eq] at h ⊢
  split_ifs at h ⊢
  · cases h
  · cases h
  · exact hrange _ hnibble h

/-- An immediate row with a byte is not one of the two with a word (R168). -/
theorem mode6800_immediate_byte {b : Byte} (h : highNibble op ∈ [0x8, 0xC]) (hbsr : op ≠ 0x8D)
    (hfits : operandFits (kindOfMode (mode6800 standardImm16 op)) (.byte b) = true) :
    mode6800 standardImm16 op = .m68Imm8 := by
  rw [mode6800_immediate h hbsr] at hfits ⊢
  split_ifs at hfits ⊢
  · cases hfits
  · rfl

/-- An immediate row with a word is one of the two that take one (R162, R168). -/
theorem mode6800_immediate_word {w : BitVec 16} (h : highNibble op ∈ [0x8, 0xC])
    (hfits : operandFits (kindOfMode (mode6800 standardImm16 op)) (.word w) = true) :
    op ∈ standardImm16 ∧ mode6800 standardImm16 op = .m68Imm16 := by
  have hbsr : op ≠ 0x8D := by
    rintro rfl
    cases hfits
  rw [mode6800_immediate h hbsr] at hfits ⊢
  split_ifs at hfits ⊢ with himm
  · exact ⟨himm, rfl⟩
  · cases hfits

/-! ## Renderings -/

theorem join_of_ne_nil {o : Text} (h : o ≠ []) (m : Text) : join m o = m ++ ascii " " ++ o :=
  if_neg (by simpa using h)

/-- An operand that opens with quoted characters, behind its mnemonic (R12). -/
theorem join_quoted (quoted : String) (h : ascii quoted ≠ []) (m o : Text) :
    join m (ascii quoted ++ o) = m ++ (ascii " " ++ ascii quoted) ++ o := by
  rw [join_of_ne_nil (List.append_ne_nil_of_left_ne_nil h o)]
  simp only [List.append_assoc]

theorem join_dollar (m o : Text) : join m (ascii "$" ++ o) = m ++ ascii " $" ++ o :=
  join_quoted "$" (by decide) m o

theorem join_hashDollar (m o : Text) : join m (ascii "#$" ++ o) = m ++ ascii " #$" ++ o :=
  join_quoted "#$" (by decide) m o

section
variable (m : Text) (op b : Byte) (w : BitVec 16) (a : Address)

/-- The offset is added to the address behind the two bytes of the row (R57, R165). -/
theorem format6800_relative : format6800 false m .m68Relative (rawOf (op :: operandBytes true (.byte b))) a =
    ⟨m ++ ascii " " ++ sdec b.toInt, some (BitVec.ofInt 16 ((a.toNat : Int) + 2 + b.toInt))⟩ := by
  rw [add_assoc, ← join_of_ne_nil (sdec_ne_nil _)]
  rfl

theorem format6800_indexed : format6800 false m .m68Indexed (rawOf (op :: operandBytes true (.byte b))) a =
    plain (m ++ ascii " $" ++ hex2 b ++ ascii ",X") := by
  rw [List.append_assoc, ← join_dollar]
  rfl

theorem format6800_direct : format6800 false m .m68Direct (rawOf (op :: operandBytes true (.byte b))) a =
    plain (m ++ ascii " $" ++ hex2 b) :=
  congrArg plain (join_dollar m (hex2 b))

theorem format6800_imm8 : format6800 false m .m68Imm8 (rawOf (op :: operandBytes true (.byte b))) a =
    plain (m ++ ascii " #$" ++ hex2 b) :=
  congrArg plain (join_hashDollar m (hex2 b))

/-- The first stream byte of a 6800 word is the high byte (R10, R53). -/
theorem be16_bytes : be16 (w.extractLsb' 8 8) (w.extractLsb' 0 8) = w := word_append w

/-- An extended operand is no target (R28, R167). -/
theorem format6800_extended : format6800 false m .m68Extended (rawOf (op :: operandBytes true (.word w))) a =
    plain (m ++ ascii " $" ++ hex4 w) := by
  rw [← join_dollar]
  exact congrArg (fun v => plain (join m (ascii "$" ++ hex4 v))) (be16_bytes w)

theorem format6800_imm16 : format6800 false m .m68Imm16 (rawOf (op :: operandBytes true (.word w))) a =
    plain (m ++ ascii " #$" ++ hex4 w) := by
  rw [← join_hashDollar]
  exact congrArg (fun v => plain (join m (ascii "#$" ++ hex4 v))) (be16_bytes w)

end

/-! ## Rows -/

/-- The operand of a well-formed row is of the shape that its opcode's mode asks for. -/
theorem operandFits_of_m6800 (hw : i.wf = true) (hf : instrForm i = some ⟨.m6800 op, operand⟩) :
    operandFits (kindOfMode (mode6800 standardImm16 op)) operand = true := by
  obtain ⟨_, hfits⟩ := wf_row hw hf
  exact (Bool.and_eq_true_iff.mp hfits).2

/-- A served 6800 row completes with the mode of its opcode, and with what the formatter makes of it in that mode. -/
theorem exec_m6800 (hw : i.wf = true) (hf : instrForm i = some ⟨.m6800 op, operand⟩) (hserves : Serves s (.m6800 op))
    (hmode : mode6800 standardImm16 op = mode) {r : Rendering}
    (hr : format6800 false (rowText (.m6800 op)) mode (rawOf (op :: operandBytes true operand)) s.feedAddress = r) :
    exec i s = rowDone s ⟨.m6800 op, operand⟩ mode r.target r.withAnnotation := by
  subst hmode
  obtain ⟨_, hvalid⟩ := resolve6800_row (operandFits_of_m6800 hw hf)
  have houtput : rowOutput (rowText (.m6800 op)) ⟨.m6800 op, operand⟩ s.feedAddress = r :=
    (if_neg hvalid).trans hr
  have hexec := exec_served hw hf hserves rfl
  rwa [houtput] at hexec

/-- Settles O34. -/
theorem m6800InherentRow : Obligations.M6800InherentRow := by
  intro i s op hw hf hserves
  obtain ⟨hrange, hmode⟩ := mode6800_of_none (operandFits_of_m6800 hw hf)
  exact ⟨hrange, exec_m6800 hw hf hserves hmode rfl⟩

/-- Settles O35: `0x8D` is relative by exception, the row `0x2x` by its range. -/
theorem m6800RelativeRow : Obligations.M6800RelativeRow := by
  intro i s op b target hw hf hop hserves htarget
  have hmode : mode6800 standardImm16 op = .m68Relative := by
    obtain rfl | hrange := hop
    · rfl
    · exact mode6800_of_mem (List.mem_singleton.mpr hrange) (by decide)
  rw [exec_m6800 hw hf hserves hmode (format6800_relative _ op b s.feedAddress), ← htarget]
  simp only [Rendering.withAnnotation, annotation, List.append_assoc]

/-- Settles O36. -/
theorem m6800IndexedRow : Obligations.M6800IndexedRow := by
  intro i s op b hw hf hrange hserves
  have hmode := mode6800_of_mem (mode := .m68Indexed) hrange (by decide)
  exact exec_m6800 hw hf hserves hmode (format6800_indexed _ op b s.feedAddress)

/-- Settles O37: one clause for the extended ranges and one for the direct ranges. -/
theorem m6800AddressRow : Obligations.M6800AddressRow := by
  constructor
  · intro i s op w hw hf hrange hserves
    have hmode := mode6800_of_mem (mode := .m68Extended) hrange (by decide)
    exact ⟨rfl, exec_m6800 hw hf hserves hmode (format6800_extended _ op w s.feedAddress)⟩
  · intro i s op b hw hf hrange hserves
    have hmode := mode6800_of_mem (mode := .m68Direct) hrange (by decide)
    exact exec_m6800 hw hf hserves hmode (format6800_direct _ op b s.feedAddress)

/-- Settles O38: the operand says which of the two immediate modes the opcode has. -/
theorem m6800ImmediateRow : Obligations.M6800ImmediateRow := by
  constructor
  · intro i s op b hw hf hrange hbsr hserves
    have hmode := mode6800_immediate_byte hrange hbsr (operandFits_of_m6800 hw hf)
    exact exec_m6800 hw hf hserves hmode (format6800_imm8 _ op b s.feedAddress)
  · intro i s op w hw hf hrange hserves
    obtain ⟨himm, hmode⟩ := mode6800_immediate_word hrange (operandFits_of_m6800 hw hf)
    exact ⟨by simpa using himm, exec_m6800 hw hf hserves hmode (format6800_imm16 _ op w s.feedAddress)⟩

end Sys2Proof.Machine
end

