-- ==== Sys2Proof/Proofs/PostbyteRows.lean ====
section
/-! SUPPORT. Postbyte rows: their bytes go to the session in flight, and behind the lead bytes of an indexed row they are
that row (R86, R111, R117, R187, R190). -/

namespace Sys2Proof.Machine

variable {p : Profile} {t : Parameters} {s s' : State} {f : Form} {lead : Lead}

/-! ## Runs of commands -/

/-- After commands that answer a next state, the remaining ones run from there (R59). -/
theorem runCommands_append {cs : List Command} (h : runCommands cs s = .next s') (cs' : List Command) :
    runCommands (cs ++ cs') s = runCommands cs' s' := by
  induction cs generalizing s with
  | nil =>
    cases h
    rfl
  | cons c cs ih =>
    rw [runCommands_cons] at h
    rw [List.cons_append, runCommands_cons]
    cases hc : runCommand c s with
    | next u =>
      rw [hc] at h
      exact ih h
    | fault e => exact nomatch e
    | refused r =>
      rw [hc] at h
      cases h

/-- `continue` counts one byte at most (R24, R111). -/
theorem feed_fetched_le_succ (p : Profile) (t : Parameters) (b : Byte) (x : Session) :
    (x.feed p t b).bytesFetched ≤ x.bytesFetched + 1 := by
  obtain ⟨_, hx⟩ | ⟨_, _, hx⟩ | ⟨_, _, hx⟩ := feed_cases p t b x
  · rw [hx]
    exact Nat.le_succ _
  · rw [hx]
    exact Nat.le_succ _
  · rw [hx, pass_fetched, append_fetched]

theorem feedAll_fetched_le (bs : List Byte) (x : Session) :
    (feedAll p t bs x).bytesFetched ≤ x.bytesFetched + bs.length := by
  induction bs generalizing x with
  | nil => exact le_rfl
  | cons b bs ih =>
    calc (feedAll p t bs (x.feed p t b)).bytesFetched
        ≤ (x.feed p t b).bytesFetched + bs.length := ih _
      _ ≤ x.bytesFetched + 1 + bs.length := Nat.add_le_add_right (feed_fetched_le_succ p t b x) _
      _ = x.bytesFetched + (b :: bs).length := by rw [List.length_cons]; omega

/-! ## Postbyte rows -/

/-- A well-formed postbyte row is its bytes fed with `continue` (R111). -/
theorem exec_postbyte {i : Instr} (hw : i.wf = true) (hf : instrForm i = some f) (hpost : isPostbyte f.lead = true)
    (s : State) : exec i s = runCommands ((encode i).map .feed) s := by
  obtain ⟨rfl, _⟩ := wf_row hw hf
  rw [encode_instrOf]
  match f, hpost with
  | ⟨.postbyte pb, operand⟩, _ => exact exec_postbyteRow pb operand s

/-- Settles O27. -/
theorem postbyteRowIsItsCommands : Obligations.PostbyteRowIsItsCommands := by
  intro i f s hw hf hpost
  obtain ⟨r, hr⟩ := runCommands_feed (encode i) s
  exact ⟨_, (exec_postbyte hw hf hpost s).trans hr, hr, rfl, rfl, rfl, rfl⟩

/-! ## Indexed rows -/

theorem kindOf6809_eq_indexed {base : Option AddressingMode} (h : kindOf6809 base = .indexed) : base = none := by
  unfold kindOf6809 at h
  split at h
  · rfl
  · split at h <;> cases h

theorem kindOfPostbyte_ne_indexed (pb : Byte) : kindOfPostbyte pb ≠ .indexed := by
  unfold kindOfPostbyte
  split <;> simp

/-- The rows with an indexed operand are 6809 rows, on and off a page, whose opcode has no base mode (R183). -/
theorem lead_of_indexed (h : leadKind lead = .indexed) :
    (∃ op, lead = .m6809 op ∧ baseMode6809 op false = none) ∨
    (∃ page op, lead = .paged page op ∧ baseMode6809 op true = none) := by
  cases lead with
  | m6809 op => exact .inl ⟨op, rfl, kindOf6809_eq_indexed h⟩
  | paged page op => exact .inr ⟨page, op, rfl, kindOf6809_eq_indexed h⟩
  | mos6502 | m6800 => exact absurd h (kindOfMode_ne_indexed _)
  | z80 | ed | xy => exact absurd h (kindOfTemplate_ne_indexed _)
  | cb | xyCb => cases h
  | postbyte pb => exact absurd h (kindOfPostbyte_ne_indexed pb)

/-- The postbyte of an indexed row gives its mode (R187). -/
theorem rowMode_of_indexed (h : leadKind lead = .indexed) (text : Text) (operand : Operand) :
    rowMode text ⟨lead, operand⟩ = postbyteMode (operandPostbyte operand) := by
  obtain ⟨op, rfl, hbase⟩ | ⟨page, op, rfl, hbase⟩ := lead_of_indexed h <;> simp only [rowMode, hbase, resolvedMode]

theorem isPostbyte_of_indexed (h : leadKind lead = .indexed) : isPostbyte lead = false := by
  obtain ⟨_, rfl, _⟩ | ⟨_, _, rfl, _⟩ := lead_of_indexed h <;> rfl

/-- A served row is in flight until its last byte: a completed session would stand, and it counts too few bytes. -/
theorem fetching_of_served_part {i : Instr} {b : Byte} {seen rest : List Byte} (hw : i.wf = true)
    (hf : instrForm i = some f) (hserves : Serves s f.lead) (hpost : isPostbyte f.lead = false)
    (hbytes : encode i = b :: seen ++ rest) (hrest : rest ≠ [])
    (hseen : runCommands (.begin s.feedAddress b :: seen.map .feed) s = .next s') :
    s'.session.state = .fetching := by
  by_contra hdone
  have hstands : s'.session = feedAll s'.profile (parametersOf s'.parameters) rest s'.session :=
    (feedAll_of_not_fetching rest hdone).symm
  obtain ⟨whole, hexec, _, _, _, hfetched, _⟩ := everyServedRowCompletes i f s hw hf hserves hpost
  rw [rowIsItsCommands i f s b (seen ++ rest) hw hf hpost hbytes, List.map_append, ← List.cons_append,
    runCommands_append hseen] at hexec
  obtain ⟨_, hfed⟩ := runCommands_feed rest s'
  rw [hfed] at hexec
  cases hexec
  obtain ⟨_, hbegun⟩ := runCommands_begin s.feedAddress b seen hserves.1
  rw [hbegun] at hseen
  cases hseen
  have hle := feedAll_fetched_le (p := s.profile) (t := parametersOf s.parameters) seen
    ((Session.started s.feedAddress b).pass s.profile (parametersOf s.parameters))
  have hpos := List.length_pos_iff.mpr hrest
  rw [pass_fetched, started_fetched] at hle
  rw [← hstands, hbytes] at hfetched
  simp only [List.length_append, List.length_cons] at hfetched
  omega

/-- Settles O28: both rows are their bytes, and those of the indexed row run on from where its lead bytes led. -/
theorem postbyteRowFinishesTheIndexedRow : Obligations.PostbyteRowFinishesTheIndexedRow := by
  intro i j lead operand pb rest b bs s u hwi hfi hindexed hwj hfj hbytes hlead hserves hu
  have hpost := isPostbyte_of_indexed hindexed
  rw [hlead] at hbytes
  have hrest : encode j ≠ [] := by
    obtain ⟨rfl, _⟩ := wf_row hwj hfj
    exact encode_instrOf _ ▸ formBytes_ne_nil _
  have hrow := rowIsItsCommands i _ s b (bs ++ encode j) hwi hfi hpost hbytes
  rw [List.map_append, ← List.cons_append, runCommands_append hu] at hrow
  exact ⟨fetching_of_served_part hwi hfi hserves hpost hbytes hrest hu, (exec_postbyte hwj hfj rfl u).trans hrow.symm⟩

end Sys2Proof.Machine
end

