-- ==== Sys2Proof/Proofs/M6809Resolver.lean ====
section
/-! SUPPORT. The 6809 opcode map by its ranges and exceptions, and the postbytes that name no mode (R183 to R186, R191). -/

namespace Sys2Proof.Machine

/-- Settles O39: all 256 opcodes, off a page and on one. -/
theorem m6809OpcodeMap : Obligations.M6809OpcodeMap := by
  intro op paged
  cases paged
  case false => revert op; decide +kernel
  case true => revert op; decide +kernel

/-- A postbyte stands in no other operand than an indexed one (R187). -/
theorem indexed_of_index {kind : OperandKind} {pb : Byte} (h : operandFits kind (.index pb) = true) :
    kind = .indexed := by
  cases kind with
  | indexed => rfl
  | _ => cases h

/-- An `Invalid` row renders the error text alone (R229, R293). -/
theorem rowOutput_of_invalid {text : Text} {f : Form} (h : rowMode text f = .invalid) (a : Address) :
    rowOutput text f a = plain addrModeText := if_pos h

/-- Settles O52. -/
theorem m6809InvalidPostbyteRow : Obligations.M6809InvalidPostbyteRow := by
  intro i s lead pb hw hf _ hserves hinvalid
  obtain ⟨_, hfits⟩ := wf_row hw hf
  obtain ⟨_, hoperand⟩ := Bool.and_eq_true_iff.mp hfits
  have hindexed : leadKind lead = .indexed := indexed_of_index hoperand
  have hmode := (rowMode_of_indexed hindexed (rowText lead) (.index pb)).trans hinvalid
  rw [exec_served hw hf hserves (isPostbyte_of_indexed hindexed), rowOutput_of_invalid hmode, hmode]
  rfl

end Sys2Proof.Machine
end

