-- ==== Sys2Proof/Proofs/Profile6809E.lean ====
section
/-! SUPPORT. `P6809E` beside `P6809`: every run under the one has its counterpart under the other (R192, decision D25). -/

namespace Sys2Proof.Machine

variable {s s' : State}

/-- The same block under `P6809E`. -/
def State.onP6809E (s : State) : State := { s with profile := .p6809E }

/-- A run that, from a `P6809` block to a next state, does the same under `P6809E`, with the profile as the only
difference. -/
def SameOnP6809E (run : State → Result) : Prop :=
  ∀ s s', s.profile = .p6809 → run s = .next s' → s'.profile = .p6809 ∧ run s.onP6809E = .next s'.onP6809E

/-- The two profiles share their resolver and their formatter (R31, R192). -/
theorem pass_p6809E (t : Parameters) (x : Session) : x.pass .p6809E t = x.pass .p6809 t := rfl

theorem feed_p6809E (t : Parameters) (b : Byte) (x : Session) : x.feed .p6809E t b = x.feed .p6809 t b := rfl

theorem rowServed_onP6809E (f : Form) (hs : s.profile = .p6809) : rowServed f s.onP6809E = rowServed f s := by
  simp only [rowServed, State.onP6809E, hs, profileReads_p6809E]

theorem runCommand_sameOnP6809E (c : Command) : SameOnP6809E (runCommand c) := by
  intro s s' hs h
  obtain ⟨a, b, rfl, _, hc⟩ | ⟨a, b, rfl, hidle, hc⟩ | ⟨b, rfl, hc⟩ | ⟨rfl, hc⟩ := runCommand_cases c s <;>
    rw [hc] at h <;> cases h
  · refine ⟨hs, ?_⟩
    rw [hs, ← pass_p6809E]
    exact if_neg hidle
  · refine ⟨hs, ?_⟩
    rw [hs, ← feed_p6809E]
    rfl
  · exact ⟨hs, rfl⟩

theorem runCommands_sameOnP6809E (cs : List Command) : SameOnP6809E (runCommands cs) := by
  induction cs with
  | nil =>
    intro s s' hs h
    cases h
    exact ⟨hs, rfl⟩
  | cons c cs ih =>
    intro s s' hs h
    rw [runCommands_cons] at h
    cases hc : runCommand c s with
    | next u =>
      obtain ⟨hu, hc'⟩ := runCommand_sameOnP6809E c s u hs hc
      rw [hc] at h
      rw [runCommands_cons, hc']
      exact ih u s' hu h
    | fault e => exact nomatch e
    | refused r =>
      rw [hc] at h
      cases h

/-- A row is refused, or runs its own string, or is its bytes, under both profiles alike. -/
theorem runRow_sameOnP6809E (text : Text) (f : Form) : SameOnP6809E (runRow text f) := by
  intro s s' hs h
  obtain ⟨_, hr⟩ | ⟨hidle, hserved, hr⟩ | ⟨hidle, hserved, hr⟩ := runRow_cases text f s <;> rw [hr] at h
  · cases h
  · cases h
    exact ⟨hs, (if_neg hidle).trans (if_pos ((rowServed_onP6809E f hs).trans hserved))⟩
  · obtain ⟨hs', hfed⟩ := runCommands_sameOnP6809E (formCommands s.feedAddress f) s s' hs h
    refine ⟨hs', (if_neg hidle).trans ((if_neg ?_).trans hfed)⟩
    rw [rowServed_onP6809E f hs, hserved]
    exact Bool.false_ne_true

/-- As `exec_cases`, and the string or the command depends on the instruction alone. -/
theorem exec_cases_uniform (i : Instr) :
    (∃ text f, exec i = runRow text f) ∨ (∃ f, exec i = feedPostbyte f) ∨ (∃ c : Command, exec i = runCommand c) := by
  cases i with
  | cmdBegin a b => exact .inr (.inr ⟨.begin a b, rfl⟩)
  | cmdContinue b => exact .inr (.inr ⟨.feed b, rfl⟩)
  | cmdComplete => exact .inr (.inr ⟨.complete, rfl⟩)
  | _ => first | exact .inl ⟨_, _, rfl⟩ | exact .inr (.inl ⟨_, rfl⟩)

theorem exec_sameOnP6809E (i : Instr) : SameOnP6809E (exec i) := by
  obtain ⟨text, f, hi⟩ | ⟨f, hi⟩ | ⟨c, hi⟩ := exec_cases_uniform i <;> rw [hi]
  · exact runRow_sameOnP6809E text f
  · exact runCommands_sameOnP6809E ((formBytes f).map .feed)
  · exact runCommand_sameOnP6809E c

/-- Settles O20. -/
theorem p6809EDecodesAsP6809 : Obligations.P6809EDecodesAsP6809 := by
  intro i s t h
  obtain ⟨_, hexec⟩ := exec_sameOnP6809E i { s with profile := .p6809 } t rfl h
  exact hexec

end Sys2Proof.Machine
end

