-- ==== Sys2Proof/Proofs/M6809Rows.lean ====
section
/-! SUPPORT. The rows of the 6809 with a base mode, on and off a page: the buffer of a row is its lead bytes and then its
operand bytes, and the mode says how these stand behind the mnemonic (R181, R211 to R219). -/

namespace Sys2Proof.Machine

variable {i : Instr} {s : State} {lead : Lead} {operand : Operand} {mode : AddressingMode} {raw : RawBytes} {k : Nat}
  {bs : List Byte}

/-! ## The buffer of a row -/

/-- From index `k` on, a buffer holds the bytes of a list, and zeros behind them (R23). -/
def HoldsAt (raw : RawBytes) (k : Nat) (bs : List Byte) : Prop := ∀ j, rawAt raw (k + j) = bs.getD j 0

theorem HoldsAt.head {b : Byte} (h : HoldsAt raw k (b :: bs)) : rawAt raw k = b := h 0

theorem HoldsAt.tail {b : Byte} (h : HoldsAt raw k (b :: bs)) : HoldsAt raw (k + 1) bs := fun j => by
  rw [Nat.add_right_comm, Nat.add_assoc, h (j + 1), List.getD_cons_succ]

/-- The first of two bytes is the high byte (R53). -/
theorem HoldsAt.word {w : BitVec 16} (h : HoldsAt raw k (wordBytes true w)) :
    be16 (rawAt raw k) (rawAt raw (k + 1)) = w := by
  rw [h.head, h.tail.head]
  exact be16_bytes w

theorem rawAt_rawOf (h : bs.length ≤ maxBytes) (j : Nat) : rawAt (rawOf bs) j = bs.getD j 0 := by
  by_cases hj : j < maxBytes
  · match j, hj with
    | 0, _ | 1, _ | 2, _ | 3, _ | 4, _ | 5, _ | 6, _ | 7, _ => rfl
  · have hle : bs.length ≤ j := h.trans (Nat.le_of_not_lt hj)
    rw [rawAt_rawOf_of_le bs hle, List.getD_eq_default _ _ hle]

theorem holdsAt_formBytes (f : Form) :
    HoldsAt (rawOf (formBytes f)) (leadBytes f.lead).length (operandBytes (isBigEndian f.lead) f.operand) := by
  intro j
  rw [rawAt_rawOf (formBytes_length_le f), formBytes, List.getD_append_right _ _ _ _ (Nat.le_add_right _ j),
    Nat.add_sub_cancel_left]

/-! ## Leads -/

/-- The leads of a whole 6809 instruction: an opcode, with or without a page byte (R75). -/
def isWhole6809 : Lead → Bool
  | .m6809 _ | .paged _ _ => true
  | _ => false

/-- The base mode of a 6809 lead, by its opcode and by whether a page byte precedes it; `none` is INDEXED (R183). -/
def leadMode6809 (lead : Lead) : Option AddressingMode :=
  baseMode6809 (leadOp lead) (leadBytes lead).tail.isEmpty.not

theorem isWhole6809_of_serves (h6809 : Is6809 s.profile) (hserves : Serves s lead) (hpost : isPostbyte lead = false) :
    isWhole6809 lead = true := by
  obtain ⟨_, _, hreads⟩ := hserves
  obtain hp | hp := h6809 <;> rw [hp] at hreads
  all_goals
    match lead, hreads, hpost with
    | .m6809 _, _, _ | .paged _ _, _, _ => rfl

theorem isPostbyte_of_whole6809 (h : isWhole6809 lead = true) : isPostbyte lead = false := by
  match lead, h with
  | .m6809 _, _ | .paged _ _, _ => rfl

theorem leadKind_of_whole6809 (h : isWhole6809 lead = true) : leadKind lead = kindOf6809 (leadMode6809 lead) := by
  match lead, h with
  | .m6809 _, _ | .paged _ _, _ => rfl

theorem rowMode_of_whole6809 (h : isWhole6809 lead = true) (text : Text) (operand : Operand) :
    rowMode text ⟨lead, operand⟩ = resolvedMode (leadMode6809 lead) operand := by
  match lead, h with
  | .m6809 _, _ | .paged _ _, _ => rfl

/-- A buffer in which the 6809 finds a lead and the bytes of an operand: the page byte, if the lead has one, the opcode,
and the operand behind it (R181). -/
structure Reads6809 (raw : RawBytes) (lead : Lead) (bs : List Byte) : Prop where
  lead_length : pageBytes raw + 1 = (leadBytes lead).length
  opcode : rawAt raw (pageBytes raw) = leadOp lead
  operand : HoldsAt raw (pageBytes raw + 1) bs

theorem reads6809_formBytes (h : isWhole6809 lead = true) (hopens : leadOpens lead = true) (operand : Operand) :
    Reads6809 (rawOf (formBytes ⟨lead, operand⟩)) lead (operandBytes true operand) := by
  have hholds := holdsAt_formBytes ⟨lead, operand⟩
  match lead, h with
  | .m6809 op, _ =>
    have hpage : pageBytes (rawOf (formBytes ⟨.m6809 op, operand⟩)) = 0 := pageBytes_m6809 hopens _
    exact ⟨by rw [hpage]; rfl, by rw [hpage]; rfl, by rw [hpage]; exact hholds⟩
  | .paged page op, _ =>
    have hpage : pageBytes (rawOf (formBytes ⟨.paged page op, operand⟩)) = 1 := pageBytes_paged page _
    exact ⟨by rw [hpage]; rfl, by rw [hpage]; rfl, by rw [hpage]; exact hholds⟩

/-! ## Served rows -/

/-- The operand of a well-formed row is of the shape that its opcode's base mode asks for. -/
theorem operandFits_of_whole6809 (hw : i.wf = true) (hf : instrForm i = some ⟨lead, operand⟩)
    (hwhole : isWhole6809 lead = true) : operandFits (kindOf6809 (leadMode6809 lead)) operand = true := by
  obtain ⟨_, hfits⟩ := wf_row hw hf
  obtain ⟨_, hoperand⟩ := Bool.and_eq_true_iff.mp hfits
  rwa [← leadKind_of_whole6809 hwhole]

/-- A served 6809 row completes with its mode, and with what the formatter makes of any buffer that holds it. -/
theorem exec_whole6809 (hw : i.wf = true) (hf : instrForm i = some ⟨lead, operand⟩) (hserves : Serves s lead)
    (hwhole : isWhole6809 lead = true) (hmode : resolvedMode (leadMode6809 lead) operand = mode)
    (hvalid : mode ≠ .invalid) {r : Rendering}
    (hr : ∀ raw, Reads6809 raw lead (operandBytes true operand) →
      format6809 referenceParameters (rowText lead) mode raw s.feedAddress (encode i).length = r) :
    exec i s = rowDone s ⟨lead, operand⟩ mode r.target r.withAnnotation := by
  obtain ⟨rfl, hfits⟩ := wf_row hw hf
  obtain ⟨hopens, _⟩ := Bool.and_eq_true_iff.mp hfits
  have hrow := (rowMode_of_whole6809 hwhole (rowText lead) operand).trans hmode
  have houtput : rowOutput (rowText lead) ⟨lead, operand⟩ s.feedAddress = r := by
    rw [rowOutput, hrow, if_neg hvalid, ← hr _ (reads6809_formBytes hwhole hopens operand), encode_instrOf, ← hrow]
    match lead, hwhole with
    | .m6809 _, _ | .paged _ _, _ => rfl
  rw [exec_served hw hf hserves (isPostbyte_of_whole6809 hwhole), houtput, hrow]

/-- As `exec_whole6809`, for an opcode with a base mode; no base mode is `Invalid` (R183). -/
theorem exec_base6809 (hw : i.wf = true) (hf : instrForm i = some ⟨lead, operand⟩) (hserves : Serves s lead)
    (hwhole : isWhole6809 lead = true) (hbase : leadMode6809 lead = some mode) {r : Rendering}
    (hr : ∀ raw, Reads6809 raw lead (operandBytes true operand) →
      format6809 referenceParameters (rowText lead) mode raw s.feedAddress (encode i).length = r) :
    exec i s = rowDone s ⟨lead, operand⟩ mode r.target r.withAnnotation := by
  obtain ⟨_, _, hvalid⟩ := baseMode6809_extra _ _ mode hbase
  exact exec_whole6809 hw hf hserves hwhole (congrArg (resolvedMode · operand) hbase) hvalid hr

/-! ## Opcodes -/

/-- Only the inherent rows take no operand (R183, R211). -/
theorem leadMode6809_of_none (h : operandFits (kindOf6809 (leadMode6809 lead)) .none = true) :
    leadMode6809 lead = some .m09Inherent := by
  have hall : ∀ (op : Byte) (paged : Bool), operandFits (kindOf6809 (baseMode6809 op paged)) .none = true →
      baseMode6809 op paged = some .m09Inherent := by decide +kernel
  exact hall _ _ h

/-- An opcode that has one mode on and off a page. -/
theorem leadMode6809_of_mem {ops : List Byte} (h : leadOp lead ∈ ops)
    (hops : ∀ op ∈ ops, ∀ paged, baseMode6809 op paged = some mode) : leadMode6809 lead = some mode :=
  hops _ h _

/-! ## Registers -/

/-- The codes 12 to 15 have no register, as 6 and 7 have none (R77, R218, decision D23). -/
theorem pairRegName_eq : ∀ n < 16, pairRegName n =
    ascii (["D", "X", "Y", "U", "S", "PC", "?", "?", "A", "B", "CCR", "DPR", "?", "?", "?", "?"].getD n "") := by
  decide +kernel

/-- The register of a bit of the push and pull postbyte, by opcode: bit 6 is `U` from `0x36` on (R219). -/
def pushRegName (op : Byte) (b : Nat) : Text :=
  ascii (["CCR", "A", "B", "DPR", "X", "Y", if 0x36 ≤ op.toNat then "U" else "S", "PC"].getD b "")

theorem listRegName_eq : ∀ op ∈ ([0x34, 0x35, 0x36, 0x37] : List Byte), ∀ b < 8,
    listRegName false op b = pushRegName op b ∧ pushRegName op b ≠ [] := by
  decide +kernel

/-- The registers of the set bits, from bit 0 to bit 7 (R219). -/
def pushedRegs (op pb : Byte) : List Text := ((List.range 8).filter fun b => pb.getLsbD b).map (pushRegName op)

theorem lt_of_mem_setBits {pb : Byte} {b : Nat} (h : b ∈ (List.range 8).filter fun b => pb.getLsbD b) : b < 8 :=
  List.mem_range.mp (List.mem_filter.mp h).1

theorem registerList_eq_commaJoin {op : Byte} (hop : op ∈ ([0x34, 0x35, 0x36, 0x37] : List Byte)) (pb : Byte) :
    registerList false op pb = commaJoin (pushedRegs op pb) :=
  congrArg commaJoin (List.map_congr_left fun b hb => (listRegName_eq op hop b (lt_of_mem_setBits hb)).1)

theorem pushedRegs_ne_nil {op : Byte} (hop : op ∈ ([0x34, 0x35, 0x36, 0x37] : List Byte)) (pb : Byte) :
    ∀ name ∈ pushedRegs op pb, name ≠ [] :=
  List.forall_mem_map.mpr fun b hb => (listRegName_eq op hop b (lt_of_mem_setBits hb)).2

theorem commaJoin_ne_nil {names : List Text} (hne : names ≠ []) (h : ∀ name ∈ names, name ≠ []) :
    commaJoin names ≠ [] := by
  match names, hne with
  | [name], _ => exact h name (List.mem_singleton.mpr rfl)
  | name :: u :: ts, _ => simp [commaJoin, h name List.mem_cons_self]

/-- An empty list leaves the mnemonic alone (R12, R219). -/
theorem join_commaJoin {names : List Text} (h : ∀ name ∈ names, name ≠ []) (m : Text) :
    join m (commaJoin names) = if names = [] then m else m ++ ascii " " ++ commaJoin names := by
  split
  case isTrue hnil => rw [hnil]; rfl
  case isFalse hne => exact join_of_ne_nil (commaJoin_ne_nil hne h) m

/-! ## Renderings -/

section
variable {b : Byte} {w : BitVec 16} {t : Parameters} {m : Text} {a : Address} {n : Nat}

/-- A target in the order in which the rules add it up (R57). -/
theorem targetFrom_add (a : Address) (n : Nat) (v : Int) :
    targetFrom a ((n : Int) + v) = BitVec.ofInt 16 ((a.toNat : Int) + (n : Int) + v) := by
  rw [targetFrom, add_assoc]

theorem withAnnotation_some (body : Text) (v : TargetAddress) :
    Rendering.withAnnotation ⟨body, some v⟩ = body ++ ascii " <" ++ hex4 v ++ ascii ">" := by
  simp only [Rendering.withAnnotation, annotation, List.append_assoc]

theorem format6809_direct (h : Reads6809 raw lead [b]) :
    format6809 t m .m09Direct raw a n = plain (m ++ ascii " <$" ++ hex2 b) := by
  rw [format6809, h.operand.head]
  exact congrArg plain (join_quoted "<$" (by decide) m (hex2 b))

theorem format6809_imm8 (h : Reads6809 raw lead [b]) :
    format6809 t m .m09Imm8 raw a n = plain (m ++ ascii " #$" ++ hex2 b) := by
  rw [format6809, h.operand.head]
  exact congrArg plain (join_hashDollar m (hex2 b))

/-- An extended operand is no target under the reference parameters (R28, R213). -/
theorem format6809_extended (h : Reads6809 raw lead (wordBytes true w)) :
    format6809 referenceParameters m .m09Extended raw a n = plain (m ++ ascii " $" ++ hex4 w) := by
  rw [format6809, h.operand.word]
  exact congrArg plain (join_dollar m (hex4 w))

theorem format6809_imm16 (h : Reads6809 raw lead (wordBytes true w)) :
    format6809 t m .m09Imm16 raw a n = plain (m ++ ascii " #$" ++ hex4 w) := by
  rw [format6809, h.operand.word]
  exact congrArg plain (join_hashDollar m (hex4 w))

theorem format6809_rel8 (h : Reads6809 raw lead [b]) : format6809 t m .m09Rel8 raw a n =
    ⟨m ++ ascii " " ++ sdec b.toInt, some (BitVec.ofInt 16 ((a.toNat : Int) + (n : Int) + b.toInt))⟩ := by
  rw [format6809, h.operand.head, join_of_ne_nil (sdec_ne_nil _), targetFrom_add]
  rfl

theorem format6809_rel16 (h : Reads6809 raw lead (wordBytes true w)) : format6809 t m .m09Rel16 raw a n =
    ⟨m ++ ascii " " ++ sdec w.toInt, some (BitVec.ofInt 16 ((a.toNat : Int) + (n : Int) + w.toInt))⟩ := by
  rw [format6809, h.operand.word, join_of_ne_nil (sdec_ne_nil _), targetFrom_add]
  rfl

theorem format6809_regPair (h : Reads6809 raw lead [b]) : format6809 t m .m09RegPair raw a n =
    plain (m ++ ascii " " ++ pairRegName (b.toNat / 16) ++ ascii "," ++ pairRegName (b.toNat % 16)) := by
  have hne : pairRegName (b.toNat / 16) ++ ascii "," ++ pairRegName (b.toNat % 16) ≠ [] := by simp [ascii]
  rw [format6809, h.operand.head]
  refine congrArg plain ((join_of_ne_nil hne m).trans ?_)
  simp only [List.append_assoc]

theorem format6809_regList (hop : leadOp lead ∈ ([0x34, 0x35, 0x36, 0x37] : List Byte))
    (h : Reads6809 raw lead [b]) :
    format6809 referenceParameters m .m09RegList raw a n = plain
      (if pushedRegs (leadOp lead) b = [] then m else m ++ ascii " " ++ commaJoin (pushedRegs (leadOp lead) b)) := by
  rw [format6809, h.operand.head, h.opcode]
  refine congrArg plain ((congrArg (join m) (registerList_eq_commaJoin hop b)).trans ?_)
  exact join_commaJoin (pushedRegs_ne_nil hop b) m

end

/-! ## Statements -/

/-- Settles O40. -/
theorem m6809InherentRow : Obligations.M6809InherentRow := by
  intro i s lead hw hf h6809 hpost hserves
  have hwhole := isWhole6809_of_serves h6809 hserves hpost
  have hbase := leadMode6809_of_none (operandFits_of_whole6809 hw hf hwhole)
  exact exec_base6809 hw hf hserves hwhole hbase fun _ _ => rfl

/-- Settles O41. -/
theorem m6809ByteRow : Obligations.M6809ByteRow := by
  intro i s lead b hw hf h6809 hpost hserves
  have hwhole := isWhole6809_of_serves h6809 hserves hpost
  constructor
  · exact fun hbase => exec_base6809 hw hf hserves hwhole hbase fun _ => format6809_direct
  · exact fun hbase => exec_base6809 hw hf hserves hwhole hbase fun _ => format6809_imm8

/-- Settles O42. -/
theorem m6809WordRow : Obligations.M6809WordRow := by
  intro i s lead w hw hf h6809 hpost hserves
  have hwhole := isWhole6809_of_serves h6809 hserves hpost
  constructor
  · exact fun hbase => exec_base6809 hw hf hserves hwhole hbase fun _ => format6809_extended
  · exact fun hbase => exec_base6809 hw hf hserves hwhole hbase fun _ => format6809_imm16

/-- Settles O43: the offsets of the two widths differ in the bytes that hold them alone. -/
theorem m6809RelativeRow : Obligations.M6809RelativeRow := by
  intro i s lead operand offset mode target hw hf h6809 hserves hpost hbase hoffset htarget
  have hwhole := isWhole6809_of_serves h6809 hserves hpost
  have hexec : exec i s = rowDone s ⟨lead, operand⟩ mode (some target)
      (Rendering.withAnnotation ⟨rowText lead ++ ascii " " ++ sdec offset, some target⟩) := by
    rw [htarget]
    obtain ⟨b, rfl, rfl, rfl⟩ | ⟨w, rfl, rfl, rfl⟩ := hoffset
    · exact exec_base6809 hw hf hserves hwhole hbase fun _ => format6809_rel8
    · exact exec_base6809 hw hf hserves hwhole hbase fun _ => format6809_rel16
  rw [hexec, withAnnotation_some]

/-- Settles O44. -/
theorem m6809RegisterPairRow : Obligations.M6809RegisterPairRow := by
  rintro i s lead pb hw hf h6809 hserves hpost hop name rfl
  have hwhole := isWhole6809_of_serves h6809 hserves hpost
  have hbase : leadMode6809 lead = some .m09RegPair := leadMode6809_of_mem hop (by decide)
  have hexec := exec_base6809 hw hf hserves hwhole hbase fun _ => format6809_regPair
  rwa [pairRegName_eq _ (Nat.div_lt_of_lt_mul pb.isLt), pairRegName_eq _ (Nat.mod_lt _ (by decide))] at hexec

/-- Settles O45. -/
theorem m6809RegisterListRow : Obligations.M6809RegisterListRow := by
  rintro i s lead pb hw hf h6809 hserves hpost hop names rfl
  have hwhole := isWhole6809_of_serves h6809 hserves hpost
  have hbase : leadMode6809 lead = some .m09RegList := leadMode6809_of_mem hop (by decide)
  exact exec_base6809 hw hf hserves hwhole hbase fun _ => format6809_regList hop

end Sys2Proof.Machine
end

