-- ==== Sys2Proof/Proofs/M6809IndexedRows.lean ====
section
/-! SUPPORT. The indexed rows of the 6809: the postbyte gives the kind and the brackets, and the kind says how the offset
and the register stand behind the mnemonic (R187 to R190, R220 to R228). -/

namespace Sys2Proof.Machine

variable {i : Instr} {s : State} {lead : Lead} {operand : Operand} {raw : RawBytes} {k : Nat} {pb : Byte}
  {kind : IndexKind} {indirect : Bool}

/-! ## Postbytes -/

/-- The operands that open with a postbyte (R75). -/
def hasPostbyte : Operand → Bool
  | .index _ | .index8 _ _ | .index16 _ _ => true
  | _ => false

theorem indexed_of_hasPostbyte {shape : OperandKind} (hpost : hasPostbyte operand = true)
    (h : operandFits shape operand = true) : shape = .indexed := by
  match shape, operand, hpost, h with
  | .indexed, _, _, _ => rfl

theorem postbyteMode_idx5 (h : pb.getLsbD 7 = false) : postbyteMode pb = .m09Indexed .idx5 false := if_pos h

/-- A postbyte that asks for an offset behind it has bit 7 set (R188, R190). -/
theorem bit7_of_extra (h : extra6809 (postbyteMode pb) ≠ 1) : pb.getLsbD 7 = true := by
  by_contra h7
  exact h (congrArg extra6809 (postbyteMode_idx5 (Bool.eq_false_iff.mpr h7)))

/-- A postbyte with bit 7 set has the kind of its low bits, in brackets by bit 4 where the kind allows them (R189). -/
theorem postbyteMode_of_kind (h7 : pb.getLsbD 7 = true) (hkind : postbyteKind (lowNibble pb) = some kind)
    (hallowed : pb.getLsbD 4 = true → kind ≠ .inc1 ∧ kind ≠ .dec1) :
    postbyteMode pb = .m09Indexed kind (pb.getLsbD 4) := by
  have h9F : pb ≠ 0x9F := by
    rintro rfl
    cases hkind
  have hvalid : (indirectBit pb && (kind == .inc1 || kind == .dec1)) ≠ true := by
    simpa [indirectBit] using hallowed
  rw [postbyteMode, if_neg (by simp [h7]), if_neg h9F, hkind]
  exact if_neg hvalid

/-! ## Operands -/

section
variable {b : Byte} {w : BitVec 16} {fixed : Bool} {a : Address} {n : Nat}

theorem bracketed_ne_nil {inner : Text} (h : inner ≠ []) : bracketed indirect inner ≠ [] := by
  unfold bracketed
  split <;> simp [h]

/-- Every kind prints a comma or a bracket at least (R220 to R228). -/
theorem indexedOperand_body_ne_nil : (indexedOperand fixed kind indirect raw k a n).body ≠ [] := by
  cases kind with
  | extInd => exact List.cons_ne_nil _ _
  | _ => exact bracketed_ne_nil (by simp [ascii])

theorem indexedOperand_idx5 (h : HoldsAt raw k [pb]) : indexedOperand fixed .idx5 indirect raw k a n =
    plain (bracketed indirect (sdec (pb.setWidth 5).toInt ++ ascii "," ++ indexRegName pb)) := by
  rw [indexedOperand, h.head]
  rfl

/-- The kinds without an offset: low bits, kind and text (R189, R221, R224, R225). -/
def noOffsetForms (pb : Byte) : List (Nat × IndexKind × Text) := [
  (0x0, .inc1, ascii "," ++ indexRegName pb ++ ascii "+"), (0x1, .inc2, ascii "," ++ indexRegName pb ++ ascii "++"),
  (0x2, .dec1, ascii ",-" ++ indexRegName pb), (0x3, .dec2, ascii ",--" ++ indexRegName pb),
  (0x4, .zero, ascii "," ++ indexRegName pb), (0x5, .acc, ascii "B," ++ indexRegName pb),
  (0x6, .acc, ascii "A," ++ indexRegName pb), (0xB, .acc, ascii "D," ++ indexRegName pb)]

theorem postbyteKind_noOffset : ∀ form ∈ noOffsetForms pb, postbyteKind form.1 = some form.2.1 := by
  simp [noOffsetForms, postbyteKind]

theorem indexedOperand_noOffset (h : HoldsAt raw k [pb]) : ∀ form ∈ noOffsetForms pb, lowNibble pb = form.1 →
    indexedOperand fixed form.2.1 indirect raw k a n = plain (bracketed indirect form.2.2) := by
  simp only [noOffsetForms, List.forall_mem_cons, indexedOperand, h.head, implies_true, true_and]
  refine ⟨?_, ?_, ?_, nofun⟩
  all_goals
    intro hlow
    rw [accumulatorName, hlow]
    rfl

theorem indexedOperand_const8 (h : HoldsAt raw k [pb, b]) : indexedOperand fixed .const8 indirect raw k a n =
    plain (bracketed indirect (sdec b.toInt ++ ascii "," ++ indexRegName pb)) := by
  rw [indexedOperand, h.head, h.tail.head]
  rfl

theorem indexedOperand_pcr8 (h : HoldsAt raw k [pb, b]) : indexedOperand fixed .pcr8 indirect raw k a n =
    ⟨bracketed indirect (sdec b.toInt ++ ascii ",PCR"),
      some (BitVec.ofInt 16 ((a.toNat : Int) + (n : Int) + b.toInt))⟩ := by
  rw [indexedOperand, h.tail.head, targetFrom_add]
  rfl

theorem indexedOperand_pcr16 (h : HoldsAt raw k (pb :: wordBytes true w)) :
    indexedOperand fixed .pcr16 indirect raw k a n =
    ⟨bracketed indirect (sdec w.toInt ++ ascii ",PCR"),
      some (BitVec.ofInt 16 ((a.toNat : Int) + (n : Int) + w.toInt))⟩ := by
  rw [indexedOperand, h.tail.word, targetFrom_add]
  rfl

/-- An indirect extended operand is no target (R28, R227). -/
theorem indexedOperand_extInd (h : HoldsAt raw k (pb :: wordBytes true w)) :
    indexedOperand fixed .extInd indirect raw k a n = plain (ascii "[$" ++ hex4 w ++ ascii "]") := by
  rw [indexedOperand, h.tail.word]

/-- The word that a 16-bit constant offset is read as: at the index of the postbyte, doubled. Off a page that is the word
behind the postbyte; behind a page byte it is its low byte and the unfed byte after it (R223, decisions D5, D24). -/
def const16Word (lead : Lead) (w : BitVec 16) : BitVec 16 :=
  match lead with
  | .paged _ _ => w <<< 8
  | _ => w

/-- The low byte of a word in the place of the high byte, and zero behind it. -/
theorem be16_low_zero (w : BitVec 16) : be16 (w.extractLsb' 0 8) 0 = w <<< 8 := by
  apply BitVec.eq_of_toNat_eq
  rw [be16, BitVec.toNat_append]
  simp only [BitVec.extractLsb'_toNat, Nat.shiftRight_zero, Nat.reducePow, Nat.shiftLeft_eq, BitVec.ofNat_eq_ofNat,
    BitVec.toNat_ofNat, Nat.zero_mod, Nat.or_zero, BitVec.toNat_shiftLeft]
  omega

theorem const16Operand_whole6809 (hwhole : isWhole6809 lead = true)
    (h : Reads6809 raw lead (pb :: wordBytes true w)) :
    const16Operand false raw (pageBytes raw + 1) = const16Word lead w := by
  have hlen := h.lead_length
  have hword := h.operand
  match lead, hwhole with
  | .m6809 op, _ =>
    rw [hlen] at hword ⊢
    exact hword.tail.word
  | .paged page op, _ =>
    rw [hlen] at hword ⊢
    have hlow : rawAt raw 4 = w.extractLsb' 0 8 := hword 2
    have hzero : rawAt raw 5 = 0 := hword 3
    show be16 (rawAt raw 4) (rawAt raw 5) = w <<< 8
    rw [hlow, hzero, be16_low_zero]

theorem indexedOperand_const16 (hwhole : isWhole6809 lead = true)
    (h : Reads6809 raw lead (pb :: wordBytes true w)) :
    indexedOperand false .const16 indirect raw (pageBytes raw + 1) a n =
      plain (bracketed indirect (sdec (const16Word lead w).toInt ++ ascii "," ++ indexRegName pb)) := by
  rw [indexedOperand, h.operand.head, const16Operand_whole6809 hwhole h]
  rfl

end

/-! ## Served rows -/

theorem isWhole6809_of_indexed (h : leadKind lead = .indexed) : isWhole6809 lead = true := by
  obtain ⟨_, rfl, _⟩ | ⟨_, _, rfl, _⟩ := lead_of_indexed h <;> rfl

theorem leadMode6809_of_indexed (h : leadKind lead = .indexed) : leadMode6809 lead = none := by
  obtain ⟨_, rfl, hbase⟩ | ⟨_, _, rfl, hbase⟩ := lead_of_indexed h <;> exact hbase

/-- The operand of a well-formed row with a postbyte is that of an indexed lead, with the bytes its postbyte asks for. -/
theorem indexed_row (hw : i.wf = true) (hf : instrForm i = some ⟨lead, operand⟩) (hpost : hasPostbyte operand = true) :
    leadKind lead = .indexed ∧ operandFits .indexed operand = true := by
  obtain ⟨_, hfits⟩ := wf_row hw hf
  obtain ⟨_, hoperand⟩ := Bool.and_eq_true_iff.mp hfits
  have hindexed := indexed_of_hasPostbyte hpost hoperand
  exact ⟨hindexed, hindexed ▸ hoperand⟩

/-- A served indexed row completes with the mode of its postbyte, and prints the operand that any buffer which holds it
gives. -/
theorem exec_indexed6809 (hw : i.wf = true) (hf : instrForm i = some ⟨lead, operand⟩) (hserves : Serves s lead)
    (hpost : hasPostbyte operand = true) (hmode : postbyteMode (operandPostbyte operand) = .m09Indexed kind indirect)
    {r : Rendering}
    (hr : ∀ raw, Reads6809 raw lead (operandBytes true operand) →
      indexedOperand false kind indirect raw (pageBytes raw + 1) s.feedAddress (encode i).length = r) :
    exec i s = rowDone s ⟨lead, operand⟩ (.m09Indexed kind indirect) r.target
      (Rendering.withAnnotation ⟨rowText lead ++ ascii " " ++ r.body, r.target⟩) := by
  obtain ⟨hindexed, _⟩ := indexed_row hw hf hpost
  have hresolved : resolvedMode (leadMode6809 lead) operand = .m09Indexed kind indirect := by
    rw [leadMode6809_of_indexed hindexed]
    exact hmode
  have hwhole := isWhole6809_of_indexed hindexed
  refine exec_whole6809 (r := ⟨rowText lead ++ ascii " " ++ r.body, r.target⟩) hw hf hserves hwhole hresolved nofun ?_
  intro raw hraw
  rw [← hr raw hraw, ← join_of_ne_nil indexedOperand_body_ne_nil]
  rfl

/-- As `exec_indexed6809`, for an operand with an offset behind its postbyte: bit 7 of that is set, its low bits give the
kind, and the kinds that no brackets may hold have no offset (R189, R190). -/
theorem exec_offset6809 (hw : i.wf = true) (hf : instrForm i = some ⟨lead, operand⟩) (hserves : Serves s lead)
    (hpost : hasPostbyte operand = true) (hoffset : 1 < (operandBytes true operand).length)
    (hkind : postbyteKind (lowNibble (operandPostbyte operand)) = some kind) (hallowed : kind ≠ .inc1 ∧ kind ≠ .dec1)
    {r : Rendering}
    (hr : ∀ raw, Reads6809 raw lead (operandBytes true operand) →
      indexedOperand false kind ((operandPostbyte operand).getLsbD 4) raw (pageBytes raw + 1) s.feedAddress
        (encode i).length = r) :
    exec i s = rowDone s ⟨lead, operand⟩ (.m09Indexed kind ((operandPostbyte operand).getLsbD 4)) r.target
      (Rendering.withAnnotation ⟨rowText lead ++ ascii " " ++ r.body, r.target⟩) := by
  obtain ⟨_, hfits⟩ := indexed_row hw hf hpost
  obtain ⟨_, hlength⟩ := operandBytes_indexed true hfits
  have h7 := bit7_of_extra (hlength ▸ hoffset.ne')
  exact exec_indexed6809 hw hf hserves hpost (postbyteMode_of_kind h7 hkind fun _ => hallowed) hr

/-! ## Statements -/

/-- Settles O46. -/
theorem m6809FiveBitRow : Obligations.M6809FiveBitRow := by
  intro i s lead pb hw hf _ hserves h7
  rw [exec_indexed6809 hw hf hserves rfl (postbyteMode_idx5 h7) fun _ hraw => indexedOperand_idx5 hraw.operand]
  simp [bracketed, plain, Rendering.withAnnotation]

/-- Settles O47. -/
theorem m6809NoOffsetRow : Obligations.M6809NoOffsetRow := by
  intro i s lead pb kind inner hw hf _ hserves h7 hform hallowed
  have hmode := postbyteMode_of_kind h7 (postbyteKind_noOffset _ hform) hallowed
  exact exec_indexed6809 hw hf hserves rfl hmode fun _ hraw => indexedOperand_noOffset hraw.operand _ hform rfl

/-- Settles O48. -/
theorem m6809Const8Row : Obligations.M6809Const8Row := by
  rintro i s lead pb b inner hw hf _ hserves hlow rfl
  have hkind : postbyteKind (lowNibble pb) = some .const8 := congrArg postbyteKind hlow
  exact exec_offset6809 hw hf hserves rfl (Nat.one_lt_succ_succ _) hkind ⟨nofun, nofun⟩
    fun _ hraw => indexedOperand_const8 hraw.operand

/-- Settles O49: the lead decides which word the offset is read as. -/
theorem m6809Const16Row : Obligations.M6809Const16Row := by
  rintro i s lead pb w inner hw hf _ hserves hlow rfl
  have hkind : postbyteKind (lowNibble pb) = some .const16 := congrArg postbyteKind hlow
  obtain ⟨hindexed, _⟩ := indexed_row hw hf rfl
  have hwhole := isWhole6809_of_indexed hindexed
  have hexec := exec_offset6809 hw hf hserves rfl (Nat.one_lt_succ_succ _) hkind ⟨nofun, nofun⟩
    fun _ => indexedOperand_const16 hwhole
  match lead, hwhole with
  | .m6809 _, _ | .paged _ _, _ => exact hexec

/-- Settles O50: the offsets of the two widths differ in the bytes that hold them alone. -/
theorem m6809PcRelativeRow : Obligations.M6809PcRelativeRow := by
  rintro i s lead operand pb offset kind inner target hw hf _ hserves hoffset rfl htarget
  have hexec : exec i s = rowDone s ⟨lead, operand⟩ (.m09Indexed kind (pb.getLsbD 4)) (some target)
      (Rendering.withAnnotation
        ⟨rowText lead ++ ascii " " ++ bracketed (pb.getLsbD 4) (sdec offset ++ ascii ",PCR"), some target⟩) := by
    rw [htarget]
    obtain ⟨b, rfl, rfl, rfl, hlow⟩ | ⟨w, rfl, rfl, rfl, hlow⟩ := hoffset
    · have hkind : postbyteKind (lowNibble pb) = some .pcr8 := congrArg postbyteKind hlow
      exact exec_offset6809 hw hf hserves rfl (Nat.one_lt_succ_succ _) hkind ⟨nofun, nofun⟩
        fun _ hraw => indexedOperand_pcr8 hraw.operand
    · have hkind : postbyteKind (lowNibble pb) = some .pcr16 := congrArg postbyteKind hlow
      exact exec_offset6809 hw hf hserves rfl (Nat.one_lt_succ_succ _) hkind ⟨nofun, nofun⟩
        fun _ hraw => indexedOperand_pcr16 hraw.operand
  rw [hexec, withAnnotation_some]
  rfl

/-- Settles O51. -/
theorem m6809ExtendedIndirectRow : Obligations.M6809ExtendedIndirectRow := by
  intro i s lead w hw hf _ hserves
  have hmode : postbyteMode 0x9F = .m09Indexed .extInd true := rfl
  have hopen : ascii " [$" = ascii " " ++ ascii "[$" := rfl
  rw [exec_indexed6809 hw hf hserves rfl hmode fun _ hraw => indexedOperand_extInd hraw.operand, hopen]
  simp [plain, Rendering.withAnnotation]

end Sys2Proof.Machine
end

