-- ==== Sys2Proof/Proofs/Z80Rewrite.lean ====
section
/-! SUPPORT. The index rewrite `HL` to `IX` or `IY` (R247, decision D28): what it leaves alone, what it leaves behind, and
how it goes across an occurrence of `HL`. -/

namespace Sys2Proof.Machine

variable {ireg text before after : Text} {jump : Bool} {prev : Option AsciiChar} {c : AsciiChar}

/-! ## Searching a text -/

theorem not_startsWith_of_not_contains {m : Text} (h : contains text m = false) : startsWith text m = false := by
  cases text with
  | nil => exact h
  | cons c text => exact (Bool.or_eq_false_iff.mp h).1

/-- A character that the searched text does not hold ends what can be found at the head. -/
theorem startsWith_append_cons {m : Text} (h : c ∉ m) (s rest : Text) :
    startsWith (s ++ c :: rest) m = startsWith s m := by
  induction s generalizing m with
  | nil =>
    cases m with
    | nil => rfl
    | cons b m => exact Bool.and_eq_false_iff.mpr (.inl (beq_false_of_ne (List.ne_of_not_mem_cons h)))
  | cons a s ih =>
    cases m with
    | nil => rfl
    | cons b m => exact congrArg (a == b && ·) (ih (List.not_mem_of_not_mem_cons h))

theorem startsWith_self (m rest : Text) : startsWith (m ++ rest) m = true := by
  induction m with
  | nil => cases rest <;> rfl
  | cons a m ih => exact Bool.and_eq_true_iff.mpr ⟨beq_self_eq_true a, ih⟩

theorem startsWith_singleton : startsWith text [c] = true ↔ text.head? = some c := by
  cases text with
  | nil => simp [startsWith]
  | cons a text => simp [startsWith]

/-- What is found behind characters other than its first lies behind them whole. -/
theorem contains_append_of_not_mem {a : AsciiChar} (h : a ∉ before) (m : Text) :
    contains (before ++ after) (a :: m) = contains after (a :: m) := by
  induction before with
  | nil => rfl
  | cons b before ih =>
    have hne : (b == a) = false := beq_false_of_ne (List.ne_of_not_mem_cons h).symm
    rw [List.cons_append, contains, startsWith, hne, ih (List.not_mem_of_not_mem_cons h)]
    rfl

/-! ## One step of the rewrite -/

/-- What stands for an occurrence of `HL` between `prev` and `after` (R247). -/
def indexOperand (ireg : Text) (jump : Bool) (prev : Option AsciiChar) (after : Text) : Text :=
  if prev = some (asciiChar '(') ∧ startsWith after (ascii ")") ∧ jump = false then ireg ++ placeholderDisp else ireg

theorem rewriteFrom_of_HL (h : startsWith (c :: text) (ascii "HL") = true) :
    rewriteFrom ireg jump prev 0 (c :: text) =
      indexOperand ireg jump prev (text.drop 1) ++ rewriteFrom ireg jump (some c) 1 text :=
  if_pos h

theorem rewriteFrom_of_not_HL (h : startsWith (c :: text) (ascii "HL") = false) :
    rewriteFrom ireg jump prev 0 (c :: text) = c :: rewriteFrom ireg jump (some c) 0 text :=
  if_neg (Bool.eq_false_iff.mp h)

/-- The character before matters where it is an opening parenthesis alone. -/
theorem rewriteFrom_prev (h : c ≠ asciiChar '(') : rewriteFrom ireg jump (some c) 0 text =
    rewriteFrom ireg jump none 0 text := by
  cases text with
  | nil => rfl
  | cons a text => simp [rewriteFrom, h]

/-- Only `JP (HL)`, whole, is treated as the jump (D28). -/
theorem rewriteHL_of_ne (h : ascii "JP (HL)" ≠ text) (r : IndexReg) :
    rewriteHL text r = rewriteFrom (iregName r) false none 0 text := by
  rw [rewriteHL, beq_false_of_ne h.symm]

/-! ## What the rewrite leaves alone, and what it leaves behind -/

theorem rewriteFrom_of_not_contains (h : contains text (ascii "HL") = false) :
    rewriteFrom ireg jump prev 0 text = text := by
  induction text generalizing prev with
  | nil => rfl
  | cons c text ih =>
    rw [rewriteFrom_of_not_HL (not_startsWith_of_not_contains h), ih (Bool.or_eq_false_iff.mp h).2]

theorem rewriteHL_of_not_contains (h : contains text (ascii "HL") = false) (r : IndexReg) : rewriteHL text r = text :=
  rewriteFrom_of_not_contains h

theorem not_mem_indexOperand (r : IndexReg) : asciiChar 'H' ∉ indexOperand (iregName r) jump prev after := by
  unfold indexOperand
  cases r <;> split <;> decide

/-- The rewrite puts no `L` at the head. -/
theorem head_rewriteFrom (r : IndexReg) (h : (rewriteFrom (iregName r) jump prev 0 text).head? = some (asciiChar 'L')) :
    text.head? = some (asciiChar 'L') := by
  cases text with
  | nil => exact h
  | cons c text =>
    cases hHL : startsWith (c :: text) (ascii "HL") with
    | true =>
      rw [rewriteFrom_of_HL hHL, indexOperand] at h
      cases r <;> split at h <;> cases h
    | false =>
      rw [rewriteFrom_of_not_HL hHL] at h
      exact h

/-- No `HL` is left, and none comes about: a copied `H` is followed by what followed it, or by the `I` of a register. -/
theorem not_contains_rewriteFrom (r : IndexReg) (jump : Bool) (prev : Option AsciiChar) (skip : Nat) (text : Text) :
    contains (rewriteFrom (iregName r) jump prev skip text) (ascii "HL") = false := by
  induction text generalizing prev skip with
  | nil => cases skip <;> rfl
  | cons c text ih =>
    match skip with
    | skip + 1 => exact ih (some c) skip
    | 0 =>
      cases hHL : startsWith (c :: text) (ascii "HL") with
      | true =>
        rw [rewriteFrom_of_HL hHL]
        exact (contains_append_of_not_mem (not_mem_indexOperand r) _).trans (ih (some c) 1)
      | false =>
        rw [rewriteFrom_of_not_HL hHL]
        refine Bool.or_eq_false_iff.mpr ⟨?_, ih (some c) 0⟩
        refine Bool.eq_false_of_not_eq_true fun hnew => Bool.eq_false_iff.mp hHL ?_
        obtain ⟨hH, hL⟩ := Bool.and_eq_true_iff.mp hnew
        exact Bool.and_eq_true_iff.mpr ⟨hH, startsWith_singleton.mpr (head_rewriteFrom r (startsWith_singleton.mp hL))⟩

/-! ## Across an occurrence -/

/-- A text that ends before an `H` is rewritten as if nothing followed: neither `HL` nor the `)` behind it is found
across an `H`. -/
theorem rewriteFrom_append_H (skip : Nat) (h : skip ≤ before.length) (rest : Text) :
    rewriteFrom ireg jump prev skip (before ++ asciiChar 'H' :: rest) =
      rewriteFrom ireg jump prev skip before ++
        rewriteFrom ireg jump (before.getLast?.or prev) 0 (asciiChar 'H' :: rest) := by
  induction before generalizing prev skip with
  | nil =>
    obtain rfl : skip = 0 := Nat.le_zero.mp h
    rfl
  | cons c before ih =>
    have hlast : (c :: before).getLast?.or prev = before.getLast?.or (some c) := by
      rw [List.getLast?_cons]
      cases before.getLast? <;> rfl
    rw [hlast, List.cons_append]
    match skip with
    | skip + 1 => exact ih skip (Nat.le_of_succ_le_succ h)
    | 0 =>
      have hsame : startsWith (c :: (before ++ asciiChar 'H' :: rest)) (ascii "HL") =
          startsWith (c :: before) (ascii "HL") :=
        congrArg (c == asciiChar 'H' && ·) (startsWith_append_cons (by decide) before rest)
      cases hHL : startsWith (c :: before) (ascii "HL") with
      | true =>
        have hlen : 1 ≤ before.length := Nat.le_of_succ_le_succ (length_le_of_startsWith hHL)
        have hclose : startsWith ((before ++ asciiChar 'H' :: rest).drop 1) (ascii ")") =
            startsWith (before.drop 1) (ascii ")") := by
          rw [List.drop_append_of_le_length hlen]
          exact startsWith_append_cons (by decide) _ _
        rw [rewriteFrom_of_HL (hsame.trans hHL), rewriteFrom_of_HL hHL, ih 1 hlen, indexOperand, hclose,
          List.append_assoc]
        rfl
      | false =>
        rw [rewriteFrom_of_not_HL (hsame.trans hHL), rewriteFrom_of_not_HL hHL, ih 0 (Nat.zero_le _), List.cons_append]

/-- At an occurrence the rewrite starts afresh behind the `L`, which is no parenthesis. -/
theorem rewriteFrom_HL_append : rewriteFrom ireg jump prev 0 (ascii "HL" ++ after) =
    indexOperand ireg jump prev after ++ rewriteFrom ireg jump none 0 after := by
  have hrest : rewriteFrom ireg jump (some (asciiChar 'L')) 0 after = rewriteFrom ireg jump none 0 after :=
    rewriteFrom_prev (by decide)
  rw [← hrest]
  exact rewriteFrom_of_HL (text := asciiChar 'L' :: after) (startsWith_self (ascii "HL") after)

/-- With the same reading of jumps in all parts, the rewrite goes part by part across an occurrence of `HL`. -/
theorem rewriteFrom_append_HL : rewriteFrom ireg jump none 0 (before ++ ascii "HL" ++ after) =
    rewriteFrom ireg jump none 0 before ++ indexOperand ireg jump before.getLast? after ++
      rewriteFrom ireg jump none 0 after := by
  have hacross := rewriteFrom_append_H (ireg := ireg) (jump := jump) (prev := none) 0 (Nat.zero_le before.length)
    (asciiChar 'L' :: after)
  rw [Option.or_none] at hacross
  rw [List.append_assoc, List.append_assoc, ← rewriteFrom_HL_append]
  exact hacross

/-- Outside the jump the displacement follows the register just where the occurrence stands directly between
parentheses. -/
theorem indexOperand_eq : indexOperand ireg false prev after =
    ireg ++ if prev = some (asciiChar '(') ∧ after.head? = some (asciiChar ')') then ascii "+ddd" else [] := by
  have hclose : startsWith after (ascii ")") = true ↔ after.head? = some (asciiChar ')') := startsWith_singleton
  simp only [indexOperand, hclose, and_true]
  split
  · rfl
  · exact (List.append_nil ireg).symm

/-- Settles O60. -/
theorem z80RewriteReplacesEveryHL : Obligations.Z80RewriteReplacesEveryHL := by
  intro reg
  refine ⟨fun t h => rewriteHL_of_not_contains h reg, fun t => not_contains_rewriteFrom reg _ none 0 t, ?_, ?_⟩
  · cases reg <;> rfl
  · rintro t before after rfl hjump
    simp only [List.mem_cons, List.not_mem_nil, or_false, not_or] at hjump
    obtain ⟨hwhole, hbefore, hafter⟩ := hjump
    rw [rewriteHL_of_ne hwhole, rewriteHL_of_ne hbefore, rewriteHL_of_ne hafter, rewriteFrom_append_HL, indexOperand_eq]
    simp only [List.append_assoc]
    cases reg <;> rfl

end Sys2Proof.Machine
end

