-- ==== Sys2Proof/Proofs/Z80Templates.lean ====
section
/-! SUPPORT. The `CB` and `ED` templates by the fields of the opcode byte (R245, R246, decision D30). -/

namespace Sys2Proof.Machine

variable {op : Byte}

/-! ## Fields -/

theorem group_lt (op : Byte) : op.toNat / 64 < 4 := Nat.div_lt_of_lt_mul op.isLt

/-- Inside a list of names it does not matter what stands for the names beyond its end. -/
theorem getD_of_lt {names : List String} {k : Nat} (h : k < names.length) (d d' : String) :
    names.getD k d = names.getD k d' := by
  rw [List.getD_eq_getElem _ _ h, List.getD_eq_getElem _ _ h]

theorem r8Name_fieldZ (op : Byte) :
    r8Name (fieldZ op) = ascii (["B", "C", "D", "E", "H", "L", "(HL)", "A"].getD (op.toNat % 8) "") :=
  congrArg ascii (getD_of_lt (Nat.mod_lt _ (by decide)) _ _)

theorem rotName_fieldY (op : Byte) : rotName (fieldY op) =
    ascii (["RLC", "RRC", "RL", "RR", "SLA", "SRA", "?", "SRL"].getD (op.toNat / 8 % 8) "") :=
  congrArg ascii (getD_of_lt (Nat.mod_lt _ (by decide)) _ _)

theorem r8ioName_fieldY (op : Byte) :
    r8ioName (fieldY op) = ascii (["B", "C", "D", "E", "H", "L", "?", "A"].getD (op.toNat / 8 % 8) "") :=
  congrArg ascii (getD_of_lt (Nat.mod_lt _ (by decide)) _ _)

theorem rrName_fieldP (op : Byte) : rrName (fieldP op) = ascii (["BC", "DE", "HL", "SP"].getD (op.toNat / 16 % 4) "") :=
  congrArg ascii (getD_of_lt (Nat.mod_lt _ (by decide)) _ _)

theorem decimal_of_lt_eight : ∀ k < 8, decimal k = [hexDigit k] := by
  decide +kernel

theorem bitDigit_cons (op : Byte) (text : Text) : bitDigit op :: text = decimal (op.toNat / 8 % 8) ++ text := by
  rw [decimal_of_lt_eight _ (Nat.mod_lt _ (by decide))]
  rfl

/-! ## The `CB` template -/

/-- Settles O58: the group 0 rotates and shifts, the groups 1 to 3 have one operation name each. -/
theorem z80RotateAndBitTemplates : Obligations.Z80RotateAndBitTemplates := by
  rintro op r8 rfl
  rw [← r8Name_fieldZ, ← rotName_fieldY]
  have hlt := group_lt op
  unfold cbTemplate
  simp only [bitDigit_cons]
  match hgroup : op.toNat / 64 with
  | 0 => exact (if_pos (Nat.lt_of_div_eq_zero (by decide) hgroup)).symm
  | 1 | 2 | 3 =>
    rw [if_neg (by omega)]
    simp only [List.append_assoc]
    rfl
  | k + 4 => omega

/-! ## The `ED` template -/

/-- The name that a table lists for an opcode byte, or `?`; the keys are the bytes as numbers. -/
theorem lookup_toNat (names : List (Byte × String)) (op : Byte) :
    (names.map fun entry => (entry.1.toNat, entry.2)).lookup op.toNat = names.lookup op := by
  induction names with
  | nil => rfl
  | cons entry names ih =>
    have hkey : (op.toNat == entry.1.toNat) = (op == entry.1) := by
      rw [Bool.eq_iff_iff, beq_iff_eq, beq_iff_eq, BitVec.toNat_inj]
    rw [List.map_cons, List.lookup_cons, List.lookup_cons, hkey, ih]

/-- A table whose keys are all of one group lists nothing for the opcodes of another. -/
theorem lookup_of_group_ne {names : List (Byte × String)} {group : Nat}
    (h : ∀ entry ∈ names, entry.1.toNat / 64 = group) (hop : op.toNat / 64 ≠ group) : names.lookup op = none := by
  refine List.lookup_eq_none_iff.mpr fun entry hentry => ?_
  have hne : op ≠ entry.1 := fun heq => hop (heq ▸ h entry hentry)
  exact bne_iff_ne.mpr hne

theorem edBlockTable_group : ∀ entry ∈ edBlockTable, entry.1.toNat / 64 = 2 := by decide

theorem edNamedTable_group : ∀ entry ∈ edNamedTable, entry.1.toNat / 64 = 1 := by decide

/-- The mask `0xCF` keeps the group and the low nibble, the mask `0xC7` the group and `z` (R79). -/
theorem masked_eq_iff (op : Byte) :
    (op &&& 0xCF = 0x42 ↔ op.toNat / 64 = 1 ∧ op.toNat % 16 = 0x2) ∧
    (op &&& 0xCF = 0x4A ↔ op.toNat / 64 = 1 ∧ op.toNat % 16 = 0xA) ∧
    (op &&& 0xCF = 0x43 ↔ op.toNat / 64 = 1 ∧ op.toNat % 16 = 0x3) ∧
    (op &&& 0xCF = 0x4B ↔ op.toNat / 64 = 1 ∧ op.toNat % 16 = 0xB) ∧
    (op &&& 0xC7 = 0x40 ↔ op.toNat / 64 = 1 ∧ op.toNat % 16 % 8 = 0) ∧
    (op &&& 0xC7 = 0x41 ↔ op.toNat / 64 = 1 ∧ op.toNat % 16 % 8 = 1) := by
  revert op
  decide +kernel

/-- The name that a table lists for an opcode byte, `?` where it lists none (R245). -/
def listedName (names : List (Byte × String)) (op : Byte) : Text := ascii ((names.lookup op).getD "?")

theorem listedName_toNat (names : List (Byte × String)) (op : Byte) :
    ascii (((names.map fun entry => (entry.1.toNat, entry.2)).lookup op.toNat).getD "?") = listedName names op :=
  congrArg (fun name : Option String => ascii (name.getD "?")) (lookup_toNat names op)

/-- The tests on the masked byte look into the group 1 alone, and so does the table of names. -/
theorem edTemplate_of_group_ne (h : op.toNat / 64 ≠ 1) : edTemplate op = listedName edBlockTable op := by
  have hname : edNamedTable.lookup op = none := lookup_of_group_ne edNamedTable_group h
  rw [edTemplate, listedName]
  cases edBlockTable.lookup op with
  | some name => rfl
  | none =>
    simp only [masked_eq_iff op, h, false_and, if_false, hname]
    rfl

/-- In the group 1 no block instruction is listed, and the low nibble selects among the six forms and the names. -/
theorem edTemplate_of_group (h : op.toNat / 64 = 1) : edTemplate op =
    if op.toNat % 16 = 0x2 then ascii "SBC HL," ++ rrName (fieldP op)
    else if op.toNat % 16 = 0xA then ascii "ADC HL," ++ rrName (fieldP op)
    else if op.toNat % 16 = 0x3 then ascii "LD (XXXXh)," ++ rrName (fieldP op)
    else if op.toNat % 16 = 0xB then ascii "LD " ++ rrName (fieldP op) ++ ascii ",(XXXXh)"
    else if op.toNat % 16 % 8 = 0 then ascii "IN " ++ r8ioName (fieldY op) ++ ascii ",(C)"
    else if op.toNat % 16 % 8 = 1 then ascii "OUT (C)," ++ r8ioName (fieldY op)
    else listedName edNamedTable op := by
  have hblock : edBlockTable.lookup op = none := lookup_of_group_ne edBlockTable_group (by omega)
  simp only [edTemplate, hblock, masked_eq_iff op, h, true_and, listedName]
  cases edNamedTable.lookup op <;> rfl

/-- Settles O59. -/
theorem z80ExtendedTemplates : Obligations.Z80ExtendedTemplates := by
  rintro op rr r8io rfl rfl
  rw [← rrName_fieldP, ← r8ioName_fieldY]
  split
  case isFalse hgroup => exact (edTemplate_of_group_ne hgroup).trans (listedName_toNat edBlockTable op).symm
  case isTrue hgroup =>
    split
    case h_9 hin hin8 hout hout9 hsbc hadc hstore hload =>
      rw [imp_false] at hin hin8 hout hout9
      have hz0 : op.toNat % 16 % 8 ≠ 0 := by omega
      have hz1 : op.toNat % 16 % 8 ≠ 1 := by omega
      rw [edTemplate_of_group hgroup, if_neg hsbc, if_neg hadc, if_neg hstore, if_neg hload, if_neg hz0, if_neg hz1]
      exact (listedName_toNat edNamedTable op).symm
    all_goals
      rename_i hnibble
      simp only [edTemplate_of_group hgroup, hnibble]
      rfl

end Sys2Proof.Machine
end

