-- ==== Sys2Proof/Proofs/Z80Rows.lean ====
section
/-! SUPPORT. The rows of the Z80 without an operand: a template without a placeholder prints itself, and the compound form
prints its displacement in the place of the one that the rewrite put in (R243, R247, R251, R265, R269). -/

namespace Sys2Proof.Machine

variable {i : Instr} {s : State} {lead : Lead} {operand : Operand} {text : Text} {raw : RawBytes} {a : Address}
  {next k : Nat}

/-! ## Rendering -/

/-- A template that takes no operand bytes has no placeholder, and the reverse (R249). -/
theorem operandPieces_eq_nil_iff : operandPieces text = [] ↔ templateWidth text = 0 := by
  rw [operandPieces, templateWidth, List.filter_eq_nil_iff, List.sum_eq_zero_iff]
  simp

/-- Where no placeholder follows, the text is printed as it stands, from where the scan goes on. -/
theorem renderPieces_scanFrom_of_literal {dispAt : Option Nat} {skip : Nat}
    (h : (scanFrom skip text).filter (pieceWidth · != 0) = []) :
    renderPieces raw a dispAt next (scanFrom skip text) = plain (text.drop skip) := by
  induction text generalizing skip with
  | nil => cases skip <;> rfl
  | cons c text ih =>
    match skip with
    | skip + 1 => exact ih h
    | 0 =>
      unfold scanFrom at h ⊢
      split_ifs at h ⊢
      case neg =>
        have hrest : renderPieces raw a dispAt next (scanFrom 0 text) = plain text := ih h
        rw [renderPieces, hrest]
        rfl
      all_goals cases h

theorem renderPieces_of_width_zero {dispAt : Option Nat} (h : templateWidth text = 0) :
    renderPieces raw a dispAt next (scanTemplate text) = plain text :=
  renderPieces_scanFrom_of_literal (operandPieces_eq_nil_iff.mpr h)

/-- In a template whose one placeholder is a displacement, the byte at `k` takes its place (R269). -/
theorem renderPieces_of_disp (h : operandPieces text = [.disp]) :
    renderPieces raw a (some k) next (scanTemplate text) =
      plain (replaceFirst text placeholderDisp (pdec (sext8 (rawAt raw k)))) := by
  induction text with
  | nil => cases h
  | cons c text ih =>
    unfold operandPieces scanTemplate scanFrom at h
    unfold scanTemplate scanFrom
    split_ifs at h ⊢ with hword hbyte hdisp hrel
    · cases h
    · cases h
    · have hrest : renderPieces raw a (some k) next (scanFrom 3 text) = plain (text.drop 3) :=
        renderPieces_scanFrom_of_literal (List.cons.inj h).2
      rw [renderPieces, hrest, replaceFirst, if_pos hdisp]
      rfl
    · cases h
    · have hrest : renderPieces raw a (some k) next (scanFrom 0 text) =
          plain (replaceFirst text placeholderDisp (pdec (sext8 (rawAt raw k)))) := ih h
      rw [renderPieces, hrest, replaceFirst, if_neg hdisp]
      rfl

/-! ## Served rows -/

/-- A served Z80 row completes with its template, as the formatter prints it from the row's bytes (R265). -/
theorem exec_z80 (hw : i.wf = true) (hf : instrForm i = some ⟨lead, operand⟩) (hz80 : s.profile = .pZ80)
    (hserves : Serves s lead) {r : Rendering}
    (hr : formatTemplate false (rowTemplate (rowText lead) ⟨lead, operand⟩) (rawOf (formBytes ⟨lead, operand⟩))
      s.feedAddress = r) :
    exec i s = rowDone s ⟨lead, operand⟩ .mz80Template r.target r.withAnnotation := by
  subst hr
  have hexec (hpost : isPostbyte lead = false) := exec_served hw hf hserves hpost
  obtain ⟨_, _, hreads⟩ := hserves
  rw [hz80] at hreads
  match lead, hreads with
  | .z80 _, _ | .cb _, _ | .ed _, _ | .xy _ _, _ | .xyCb _ _ _, _ => exact hexec rfl

/-- Behind any lead but the compound one the operand follows the lead bytes, displacement included (R241, R251). -/
theorem rowTemplate_of_not_compound (hreads : profileReads .pZ80 lead = true)
    (hplain : ∀ reg disp op, lead ≠ .xyCb reg disp op) (text : Text) (operand : Operand) :
    rowTemplate text ⟨lead, operand⟩ = ⟨text, (leadBytes lead).length, none⟩ := by
  match lead, hreads with
  | .z80 _, _ | .cb _, _ | .ed _, _ | .xy _ _, _ => rfl
  | .xyCb reg disp op, _ => exact absurd rfl (hplain reg disp op)

/-- The template of a row without an operand has no placeholder, since the row is no longer than its lead. -/
theorem rowText_width_of_none (hw : i.wf = true) (hf : instrForm i = some ⟨lead, .none⟩)
    (hreads : profileReads .pZ80 lead = true) (hplain : ∀ reg disp op, lead ≠ .xyCb reg disp op) :
    templateWidth (rowText lead) = 0 := by
  obtain ⟨_, hfits⟩ := wf_row hw hf
  obtain ⟨_, hoperand⟩ := Bool.and_eq_true_iff.mp hfits
  have hlength := rowTemplate_length hreads hoperand
  rw [rowTemplate_of_not_compound hreads hplain, formBytes, List.length_append] at hlength
  exact Nat.add_left_cancel hlength

/-- Settles O53. -/
theorem z80PlainRow : Obligations.Z80PlainRow := by
  intro i s lead hw hf hz80 hserves hplain
  have ⟨_, _, hserved⟩ := hserves
  have hreads : profileReads .pZ80 lead = true := hz80 ▸ hserved
  refine exec_z80 hw hf hz80 hserves (r := plain (rowText lead)) ?_
  rw [rowTemplate_of_not_compound hreads hplain]
  exact renderPieces_of_width_zero (rowText_width_of_none hw hf hreads hplain)

/-! ## The compound form -/

/-- A `CB` template names `HL` in its memory form alone (R246). -/
theorem cbTemplate_register (op : Byte) (h : op.toNat % 8 ≠ 6) : contains (cbTemplate op) (ascii "HL") = false := by
  revert op
  decide +kernel

/-- Behind `DD` or `FD` the memory form has one displacement and no other placeholder. -/
theorem cbTemplate_memory (op : Byte) (h : op.toNat % 8 = 6) (reg : IndexReg) :
    operandPieces (rewriteHL (cbTemplate op) reg) = [.disp] := by
  cases reg <;> revert op <;> decide +kernel

/-- The displacement of the compound form is its third byte, and its operation the fourth (R251). -/
theorem formBytes_xyCb (reg : IndexReg) (d op : Byte) : formBytes ⟨.xyCb reg d op, .none⟩ =
    [(match reg with | .ix => 0xDD | .iy => 0xFD), 0xCB, d, op] := by
  cases reg <;> rfl

/-- Settles O57: where `z` names a register the rewrite finds no `HL`; else it puts in the one displacement. -/
theorem z80CompoundRow : Obligations.Z80CompoundRow := by
  intro i s reg d op hw hf hz80 hserves
  refine ⟨formBytes_xyCb reg d op, ?_⟩
  have hdisp : rawAt (rawOf (formBytes ⟨.xyCb reg d op, .none⟩)) 2 = d := by cases reg <;> rfl
  split
  case isTrue hmemory =>
    have hrender := renderPieces_of_disp (a := s.feedAddress) (next := 4) (k := 2)
      (raw := rawOf (formBytes ⟨.xyCb reg d op, .none⟩)) (cbTemplate_memory op hmemory reg)
    rw [hdisp] at hrender
    exact exec_z80 hw hf hz80 hserves hrender
  case isFalse hregister =>
    have hsame := rewriteHL_of_not_contains (cbTemplate_register op hregister) reg
    have hwidth : templateWidth (rewriteHL (cbTemplate op) reg) = 0 := by
      rw [hsame]
      exact cbTemplate_width op
    rw [← hsame]
    exact exec_z80 hw hf hz80 hserves (renderPieces_of_width_zero hwidth)

end Sys2Proof.Machine
end

