-- ==== Sys2Proof/Proofs/Z80Placeholders.lean ====
section
/-! SUPPORT. A template around its first placeholder: what the scan finds there is what a search for its spelling finds, and
the formatter prints the operand in its place (R12, R73, R249, R265 to R269). -/

namespace Sys2Proof.Machine

variable {text before after rest m r : Text} {piece other : Piece} {ps : List Piece} {raw : RawBytes} {a : Address}
  {dispAt : Option Nat} {next : Nat}

/-! ## Text before an occurrence -/

/-- No occurrence of `m` begins inside `before` where `rest` follows it. -/
def NoneBegins (m rest : Text) : Text → Prop
  | [] => True
  | c :: before => startsWith (c :: (before ++ rest)) m = false ∧ NoneBegins m rest before

theorem contains_append_of_noneBegins (h : NoneBegins m rest before) : contains (before ++ rest) m = contains rest m := by
  induction before with
  | nil => rfl
  | cons c before ih =>
    obtain ⟨hhere, hlater⟩ := h
    rw [List.cons_append, contains, hhere, ih hlater]
    rfl

theorem replaceFirst_append_of_noneBegins (h : NoneBegins m rest before) :
    replaceFirst (before ++ rest) m r = before ++ replaceFirst rest m r := by
  induction before with
  | nil => rfl
  | cons c before ih =>
    obtain ⟨hhere, hlater⟩ := h
    rw [List.cons_append, replaceFirst, if_neg (Bool.eq_false_iff.mp hhere), ih hlater]
    rfl

theorem noneBegins_of_not_mem {c : AsciiChar} (h : c ∉ before) : NoneBegins (c :: m) rest before := by
  induction before with
  | nil => trivial
  | cons b before ih =>
    refine ⟨?_, ih (List.not_mem_of_not_mem_cons h)⟩
    rw [startsWith, beq_false_of_ne (List.ne_of_not_mem_cons h).symm, Bool.false_and]

/-- What follows does not matter where it opens with a character that `m` does not hold. -/
theorem NoneBegins.of_head {c d : AsciiChar} {rest' : Text} (hc : c ∉ m) (hd : d ∉ m)
    (h : NoneBegins m (c :: rest) before) : NoneBegins m (d :: rest') before := by
  induction before with
  | nil => trivial
  | cons b before ih =>
    obtain ⟨hhere, hlater⟩ := h
    refine ⟨?_, ih hlater⟩
    rw [← List.cons_append, startsWith_append_cons hc] at hhere
    rw [← List.cons_append, startsWith_append_cons hd, hhere]

theorem replaceFirst_self (hm : m ≠ []) : replaceFirst (m ++ rest) m r = r ++ rest := by
  have hstart := startsWith_self m rest
  cases m with
  | nil => exact absurd rfl hm
  | cons c m =>
    rw [List.cons_append] at hstart ⊢
    rw [replaceFirst, if_pos hstart, ← List.cons_append, List.drop_left]

theorem eq_append_drop_of_startsWith (h : startsWith text m = true) : text = m ++ text.drop m.length := by
  induction m generalizing text with
  | nil => rfl
  | cons b m ih =>
    cases text with
    | nil => cases h
    | cons c text =>
      obtain ⟨hhead, htail⟩ := Bool.and_eq_true_iff.mp h
      rw [eq_of_beq hhead]
      exact congrArg (b :: ·) (ih htail)

/-! ## The first placeholder -/

/-- How a piece is spelled in a template (R73). -/
def pieceText : Piece → Text
  | .lit c => [c]
  | .word => placeholderWord
  | .byte => placeholderByte
  | .disp => placeholderDisp
  | .rel => placeholderRel

theorem pieceText_ne_nil (piece : Piece) : pieceText piece ≠ [] := by
  cases piece <;> exact List.cons_ne_nil _ _

theorem scanFrom_eq_drop (skip : Nat) (text : Text) : scanFrom skip text = scanTemplate (text.drop skip) := by
  induction text generalizing skip with
  | nil => cases skip <;> rfl
  | cons c text ih =>
    match skip with
    | 0 => rfl
    | skip + 1 => exact ih skip

/-- The scan takes a placeholder that is spelled here, and a character where none is (R249). -/
theorem scanTemplate_cons (c : AsciiChar) (text : Text) :
    (∃ piece, pieceWidth piece ≠ 0 ∧ startsWith (c :: text) (pieceText piece) = true ∧
      scanTemplate (c :: text) = piece :: scanTemplate ((c :: text).drop (pieceText piece).length)) ∨
    ((∀ piece, pieceWidth piece ≠ 0 → startsWith (c :: text) (pieceText piece) = false) ∧
      scanTemplate (c :: text) = .lit c :: scanTemplate text) := by
  have hscan : scanTemplate (c :: text) = scanFrom 0 (c :: text) := rfl
  rw [hscan, scanFrom]
  split_ifs with hword hbyte hdisp hrel
  · exact .inl ⟨.word, by decide, hword, congrArg (Piece.word :: ·) (scanFrom_eq_drop 4 text)⟩
  · exact .inl ⟨.byte, by decide, hbyte, congrArg (Piece.byte :: ·) (scanFrom_eq_drop 2 text)⟩
  · exact .inl ⟨.disp, by decide, hdisp, congrArg (Piece.disp :: ·) (scanFrom_eq_drop 3 text)⟩
  · exact .inl ⟨.rel, by decide, hrel, congrArg (Piece.rel :: ·) (scanFrom_eq_drop 3 text)⟩
  · refine .inr ⟨fun piece hpiece => ?_, rfl⟩
    cases piece with
    | lit _ => exact absurd rfl hpiece
    | word => exact Bool.eq_false_iff.mpr hword
    | byte => exact Bool.eq_false_iff.mpr hbyte
    | disp => exact Bool.eq_false_iff.mpr hdisp
    | rel => exact Bool.eq_false_iff.mpr hrel

theorem operandPieces_of_scan (hpiece : pieceWidth piece ≠ 0)
    (hscan : scanTemplate text = piece :: scanTemplate after) : operandPieces text = piece :: operandPieces after := by
  have hkept : (pieceWidth piece != 0) = true := bne_iff_ne.mpr hpiece
  rw [operandPieces, hscan]
  exact List.filter_cons_of_pos hkept

/-- Where the scan finds no placeholder, none is spelled. -/
theorem not_contains_of_operandPieces_nil (h : operandPieces text = []) (hpiece : pieceWidth piece ≠ 0) :
    contains text (pieceText piece) = false := by
  induction text with
  | nil => cases piece with
    | lit _ => exact absurd rfl hpiece
    | word | byte | disp | rel => rfl
  | cons c text ih =>
    obtain ⟨first, hfirst, _, hscan⟩ | ⟨hnone, hscan⟩ := scanTemplate_cons c text
    · rw [operandPieces_of_scan hfirst hscan] at h
      cases h
    · rw [operandPieces, hscan] at h
      exact Bool.or_eq_false_iff.mpr ⟨hnone piece hpiece, ih h⟩

/-- `text` is `before`, the placeholder `piece` and `after`, and no placeholder begins inside `before`. -/
structure SplitsAt (text : Text) (piece : Piece) (before after : Text) : Prop where
  text_eq : text = before ++ (pieceText piece ++ after)
  placeholder : pieceWidth piece ≠ 0
  first : ∀ other, pieceWidth other ≠ 0 → NoneBegins (pieceText other) (pieceText piece ++ after) before
  scan : scanTemplate text = before.map .lit ++ piece :: scanTemplate after

theorem splitsAt_of_operandPieces (h : operandPieces text = piece :: ps) :
    ∃ before after, SplitsAt text piece before after ∧ operandPieces after = ps := by
  induction text with
  | nil => cases h
  | cons c text ih =>
    obtain ⟨first, hfirst, hhere, hscan⟩ | ⟨hnone, hscan⟩ := scanTemplate_cons c text
    · rw [operandPieces_of_scan hfirst hscan] at h
      obtain ⟨rfl, hrest⟩ := List.cons.inj h
      exact ⟨[], _, ⟨eq_append_drop_of_startsWith hhere, hfirst, fun _ _ => trivial, hscan⟩, hrest⟩
    · rw [operandPieces, hscan] at h
      obtain ⟨before, after, hsplit, hrest⟩ := ih h
      refine ⟨c :: before, after, ⟨?_, hsplit.placeholder, fun other hother => ⟨?_, hsplit.first other hother⟩, ?_⟩, hrest⟩
      · exact congrArg (c :: ·) hsplit.text_eq
      · rw [← hsplit.text_eq]
        exact hnone other hother
      · rw [hscan, hsplit.scan]
        rfl

theorem SplitsAt.replaceFirst_eq (h : SplitsAt text piece before after) :
    replaceFirst text (pieceText piece) r = before ++ (r ++ after) := by
  rw [h.text_eq, replaceFirst_append_of_noneBegins (h.first piece h.placeholder), replaceFirst_self (pieceText_ne_nil piece)]

theorem SplitsAt.contains_eq (h : SplitsAt text piece before after) (hother : pieceWidth other ≠ 0) :
    contains text (pieceText other) = contains (pieceText piece ++ after) (pieceText other) := by
  rw [h.text_eq, contains_append_of_noneBegins (h.first other hother)]

/-- The placeholders of one operand byte, in the scan's order (R73). -/
def bytePieces : List Piece := [.byte, .disp, .rel]

/-- None of them holds the character that opens another. -/
theorem bytePieces_apart : ∀ piece ∈ bytePieces, ∀ other ∈ bytePieces, piece ≠ other →
    ∀ c ∈ (pieceText other).head?, c ∉ pieceText piece := by decide

theorem bytePieces_width : ∀ piece ∈ bytePieces, pieceWidth piece ≠ 0 := by decide

/-- A template whose one placeholder takes a byte spells this placeholder and no other. -/
theorem eq_of_contains_pieceText (h : operandPieces text = [piece]) (hpiece : piece ∈ bytePieces)
    (hother : other ∈ bytePieces) (hcontains : contains text (pieceText other) = true) : piece = other := by
  by_contra hne
  have hwidth := bytePieces_width other hother
  obtain ⟨before, after, hsplit, hafter⟩ := splitsAt_of_operandPieces h
  have hapart := bytePieces_apart piece hpiece other hother hne
  have hnot := not_contains_of_operandPieces_nil hafter hwidth
  rw [hsplit.contains_eq hwidth] at hcontains
  cases hspelled : pieceText other with
  | nil => exact pieceText_ne_nil other hspelled
  | cons c m =>
    rw [hspelled] at hcontains hnot hapart
    rw [contains_append_of_not_mem (hapart c rfl), hnot] at hcontains
    cases hcontains

/-! ## Rendering -/

theorem renderPieces_literal_append (before : Text) (ps : List Piece) :
    renderPieces raw a dispAt next (before.map .lit ++ ps) =
      ⟨before ++ (renderPieces raw a dispAt next ps).body, (renderPieces raw a dispAt next ps).target⟩ := by
  induction before with
  | nil => rfl
  | cons c before ih =>
    rw [List.map_cons, List.cons_append, renderPieces, ih]
    rfl

/-- An operand is rendered alike whether nothing or literal text follows it. -/
theorem renderPieces_cons_of_plain {after : Text} (h : ∀ k, renderPieces raw a dispAt k ps = plain after) :
    renderPieces raw a dispAt next (piece :: ps) =
      ⟨(renderPieces raw a dispAt next [piece]).body ++ after, (renderPieces raw a dispAt next [piece]).target⟩ := by
  cases piece with
  | disp => cases dispAt <;> simp [renderPieces, h, plain]
  | lit _ | word | byte | rel => simp [renderPieces, h, plain]

/-- In a template with one placeholder the operand takes its place (R266 to R269). -/
theorem renderPieces_of_single (h : operandPieces text = [piece]) :
    renderPieces raw a dispAt next (scanTemplate text) =
      ⟨replaceFirst text (pieceText piece) (renderPieces raw a dispAt next [piece]).body,
        (renderPieces raw a dispAt next [piece]).target⟩ := by
  obtain ⟨before, after, hsplit, hafter⟩ := splitsAt_of_operandPieces h
  have hliteral (k : Nat) : renderPieces raw a dispAt k (scanTemplate after) = plain after :=
    renderPieces_of_width_zero (operandPieces_eq_nil_iff.mp hafter)
  rw [hsplit.scan, renderPieces_literal_append, renderPieces_cons_of_plain hliteral, hsplit.replaceFirst_eq]

/-- A displacement is printed with characters that the placeholder of a byte does not hold, and is never empty. -/
theorem pdec_sext8_apart (b : Byte) : pdec (sext8 b) ≠ [] ∧ ∀ c ∈ pdec (sext8 b), c ∉ placeholderByte := by
  revert b
  decide +kernel

/-- Putting a displacement in for `+ddd` brings no `XXh` about: the first one is still behind it. -/
theorem SplitsAt.replaceFirst_byte (h : SplitsAt text .disp before after) (d : Byte) :
    replaceFirst (replaceFirst text placeholderDisp (pdec (sext8 d))) placeholderByte r =
      before ++ (pdec (sext8 d) ++ replaceFirst after placeholderByte r) := by
  have hdisp : replaceFirst text placeholderDisp (pdec (sext8 d)) = before ++ (pdec (sext8 d) ++ after) :=
    h.replaceFirst_eq
  obtain ⟨hne, hapart⟩ := pdec_sext8_apart d
  have hinside : NoneBegins placeholderByte after (pdec (sext8 d)) :=
    noneBegins_of_not_mem fun hmem => hapart _ hmem (List.mem_cons_self ..)
  have hbefore : NoneBegins placeholderByte (pdec (sext8 d) ++ after) before := by
    have hfirst : NoneBegins placeholderByte (placeholderDisp ++ after) before := h.first .byte (by decide)
    cases hpdec : pdec (sext8 d) with
    | nil => exact absurd hpdec hne
    | cons c digits => exact hfirst.of_head (by decide) (hapart c (by simp [hpdec]))
  rw [hdisp, replaceFirst_append_of_noneBegins hbefore, replaceFirst_append_of_noneBegins hinside]

/-- In a template with a displacement and a byte, the byte at the first operand position is the displacement (R269). -/
theorem renderPieces_of_disp_byte (h : operandPieces text = [.disp, .byte]) :
    renderPieces raw a none next (scanTemplate text) =
      plain (replaceFirst (replaceFirst text placeholderDisp (pdec (sext8 (rawAt raw next)))) placeholderByte
        (hex2 (rawAt raw (next + 1)) ++ ascii "h")) := by
  obtain ⟨before, after, hsplit, hafter⟩ := splitsAt_of_operandPieces h
  have hbyte : renderPieces raw a none (next + 1) (scanTemplate after) =
      plain (replaceFirst after placeholderByte (hex2 (rawAt raw (next + 1)) ++ ascii "h")) := by
    rw [renderPieces_of_single hafter]
    simp [renderPieces, plain, pieceText]
  rw [hsplit.scan, renderPieces_literal_append, renderPieces, hbyte, hsplit.replaceFirst_byte]
  rfl

end Sys2Proof.Machine
end

