-- ==== Sys2Proof/Proofs/Z80OperandRows.lean ====
section
/-! SUPPORT. The rows of the Z80 with an operand behind their lead: a word, a byte, or a displacement and a byte (R250,
R266 to R269). -/

namespace Sys2Proof.Machine

variable {i : Instr} {s : State} {lead : Lead} {operand : Operand} {text : Text} {w : BitVec 16} {b d : Byte}

/-! ## The placeholders of a row -/

theorem operandPieces_of_word (h : operandFits (kindOfTemplate text) (.word w) = true) : operandPieces text = [.word] := by
  unfold kindOfTemplate at h
  split at h
  case h_1 hpieces => exact hpieces
  all_goals cases h

theorem operandPieces_of_byte (h : operandFits (kindOfTemplate text) (.byte b) = true) :
    ∃ piece ∈ bytePieces, operandPieces text = [piece] := by
  unfold kindOfTemplate at h
  split at h
  case h_2 hpieces | h_3 hpieces | h_4 hpieces => exact ⟨_, by decide, hpieces⟩
  all_goals cases h

theorem operandPieces_of_dispByte (h : operandFits (kindOfTemplate text) (.dispByte d b) = true) :
    operandPieces text = [.disp, .byte] := by
  unfold kindOfTemplate at h
  split at h
  case h_5 hpieces => exact hpieces
  all_goals cases h

/-- No Z80 lead stores the high byte of a word first (R53). -/
theorem isBigEndian_z80 (hreads : profileReads .pZ80 lead = true) : isBigEndian lead = false := by
  match lead, hreads with
  | .z80 _, _ | .cb _, _ | .ed _, _ | .xy _ _, _ | .xyCb _ _ _, _ => rfl

/-- A Z80 row with an operand has one that its template asks for, and is not of the compound form, whose four bytes are
its lead (R250, R251). -/
theorem template_of_operand (hreads : profileReads .pZ80 lead = true) (hfits : operandFits (leadKind lead) operand = true)
    (hoperand : operand ≠ .none) :
    operandFits (kindOfTemplate (rowText lead)) operand = true ∧ ∀ reg disp op, lead ≠ .xyCb reg disp op := by
  have hnone : operandFits .none operand = false := by
    cases operand with
    | none => exact absurd rfl hoperand
    | _ => rfl
  match lead, hreads with
  | .z80 _, _ | .ed _, _ | .xy _ _, _ => exact ⟨hfits, nofun⟩
  | .cb _, _ | .xyCb _ _ _, _ => exact absurd hfits (Bool.eq_false_iff.mp hnone)

/-! ## Served rows -/

theorem reads_z80_of_serves (hz80 : s.profile = .pZ80) (hserves : Serves s lead) : profileReads .pZ80 lead = true := by
  obtain ⟨_, _, hreads⟩ := hserves
  exact hz80 ▸ hreads

theorem le16_bytes (w : BitVec 16) : le16 (w.extractLsb' 0 8) (w.extractLsb' 8 8) = w := word_append w

/-- A served row with an operand completes with what its template prints from any buffer that holds the operand behind
the lead. -/
theorem exec_z80Operand (hw : i.wf = true) (hf : instrForm i = some ⟨lead, operand⟩) (hz80 : s.profile = .pZ80)
    (hserves : Serves s lead) (hoperand : operand ≠ .none) {r : Rendering}
    (hr : operandFits (kindOfTemplate (rowText lead)) operand = true → ∀ raw k,
      HoldsAt raw k (operandBytes false operand) →
      renderPieces raw s.feedAddress none k (scanTemplate (rowText lead)) = r) :
    exec i s = rowDone s ⟨lead, operand⟩ .mz80Template r.target r.withAnnotation := by
  have hreads := reads_z80_of_serves hz80 hserves
  obtain ⟨_, hform⟩ := wf_row hw hf
  obtain ⟨_, hfits⟩ := Bool.and_eq_true_iff.mp hform
  obtain ⟨htemplate, hplain⟩ := template_of_operand hreads hfits hoperand
  have hholds := holdsAt_formBytes ⟨lead, operand⟩
  rw [isBigEndian_z80 hreads] at hholds
  refine exec_z80 hw hf hz80 hserves ?_
  rw [rowTemplate_of_not_compound hreads hplain]
  exact hr htemplate _ _ hholds

/-- The one placeholder of a row with a byte operand is the one that its string spells, and is rendered from the byte. -/
theorem exec_z80Byte (hw : i.wf = true) (hf : instrForm i = some ⟨lead, .byte b⟩) (hz80 : s.profile = .pZ80)
    (hserves : Serves s lead) {piece : Piece} (hpiece : piece ∈ bytePieces)
    (hspelled : contains (rowText lead) (pieceText piece) = true) {r : Rendering}
    (hr : ∀ raw k, rawAt raw k = b → renderPieces raw s.feedAddress none k [piece] = r) :
    exec i s = rowDone s ⟨lead, .byte b⟩ .mz80Template r.target
      (Rendering.withAnnotation ⟨replaceFirst (rowText lead) (pieceText piece) r.body, r.target⟩) := by
  refine exec_z80Operand (r := ⟨replaceFirst (rowText lead) (pieceText piece) r.body, r.target⟩) hw hf hz80 hserves nofun
    fun htemplate raw k hraw => ?_
  obtain ⟨first, hfirst, hpieces⟩ := operandPieces_of_byte htemplate
  obtain rfl := eq_of_contains_pieceText hpieces hfirst hpiece hspelled
  rw [renderPieces_of_single hpieces, hr raw k hraw.head]

/-! ## Statements -/

/-- Settles O54: the word is read back from the two bytes behind the lead. -/
theorem z80WordRow : Obligations.Z80WordRow := by
  intro i s lead w hw hf hz80 hserves
  constructor
  · rw [formBytes, isBigEndian_z80 (reads_z80_of_serves hz80 hserves)]
    rfl
  · refine exec_z80Operand (r := plain _) hw hf hz80 hserves nofun fun htemplate raw k hraw => ?_
    have hlow : rawAt raw k = w.extractLsb' 0 8 := hraw.head
    have hhigh : rawAt raw (k + 1) = w.extractLsb' 8 8 := hraw.tail.head
    rw [renderPieces_of_single (operandPieces_of_word htemplate)]
    simp [renderPieces, hlow, hhigh, le16_bytes, plain, pieceText, placeholderWord]

/-- Settles O55: each of the three placeholders is rendered from the byte behind the lead. -/
theorem z80ByteRow : Obligations.Z80ByteRow := by
  intro i s lead b hw hf hz80 hserves
  refine ⟨fun hspelled => ?_, fun hspelled => ?_, ?_⟩
  · exact exec_z80Byte (piece := .byte) (r := plain (hex2 b ++ ascii "h")) hw hf hz80 hserves (by decide) hspelled
      fun raw k hb => by simp [renderPieces, hb, plain]
  · exact exec_z80Byte (piece := .disp) (r := plain (pdec b.toInt)) hw hf hz80 hserves (by decide) hspelled
      fun raw k hb => by simp [renderPieces, hb, plain, sext8]
  · rintro hspelled target rfl
    rw [← withAnnotation_some]
    exact exec_z80Byte (piece := .rel) (r := ⟨sdec (b.toInt + 2), some (targetFrom s.feedAddress (b.toInt + 2))⟩)
      hw hf hz80 hserves (by decide) hspelled fun raw k hb => by simp [renderPieces, hb, plain, sext8]

/-- Settles O56: the two placeholders stand in the order of the two bytes. -/
theorem z80DisplacementByteRow : Obligations.Z80DisplacementByteRow := by
  intro i s lead d b hw hf hz80 hserves
  refine ⟨rfl, ?_⟩
  refine exec_z80Operand (r := plain _) hw hf hz80 hserves nofun fun htemplate raw k hraw => ?_
  have hdisp : rawAt raw k = d := hraw.head
  have hbyte : rawAt raw (k + 1) = b := hraw.tail.head
  rw [renderPieces_of_disp_byte (operandPieces_of_dispByte htemplate), hdisp, hbyte]
  rfl

end Sys2Proof.Machine
end

