-- ==== Sys2Proof/Proofs/Totality.lean ====
section
/-! SUPPORT. Every instruction answers a next state that keeps the block, except `begin` and a whole row in `Fetching`
(R290, R312). -/

namespace Sys2Proof.Machine

variable {s s' : State}

/-! ## What a next state keeps -/

theorem Advances.sameBlock (h : Advances s s') : SameBlock s s' := by
  obtain ⟨x, r, _, rfl⟩ := h
  exact ⟨rfl, rfl, rfl, rfl⟩

/-! ## When there is no next state -/

/-- A row has a next state outside `Fetching`, whether the block serves it or takes its bytes as they are (R312). -/
theorem runRow_next_or_refused (text : Text) (f : Form) (s : State) :
    (∃ t, runRow text f s = .next t) ∨
    (s.session.state = .fetching ∧ runRow text f s = .refused .beginWhileFetching) := by
  obtain hrefused | ⟨_, _, hserved⟩ | ⟨hs, _, hfed⟩ := runRow_cases text f s
  · exact .inr hrefused
  · exact .inl ⟨_, hserved⟩
  · obtain ⟨hfetching, _⟩ | ⟨_, _, _, _, _, hform⟩ := feedForm_cases f s
    · exact absurd hfetching hs
    · exact .inl ⟨_, hfed.trans hform⟩

/-- `begin` is the one command that is ever refused (R114, R312). -/
theorem runCommand_next_or_refused (c : Command) (s : State) :
    (∃ t, runCommand c s = .next t) ∨
    (s.session.state = .fetching ∧ runCommand c s = .refused .beginWhileFetching ∧ ∃ a b, c = .begin a b) := by
  obtain ⟨a, b, hc, hs, hrefused⟩ | ⟨_, _, _, _, hnext⟩ | ⟨_, _, hnext⟩ | ⟨_, hnext⟩ := runCommand_cases c s
  · exact .inr ⟨hs, hrefused, a, b, hc⟩
  · exact .inl ⟨_, hnext⟩
  · exact .inl ⟨_, hnext⟩
  · exact .inl ⟨_, hnext⟩

/-- A well-formed row that is refused is no postbyte row: those answer a next state from every state (R187). -/
theorem isPostbyte_of_exec_refused {i : Instr} {f : Form} {r : Refusal} (hw : i.wf = true) (hf : instrForm i = some f)
    (h : exec i s = .refused r) : isPostbyte f.lead = false := by
  rw [Bool.eq_false_iff]
  intro hpost
  obtain ⟨t, hnext, _⟩ := postbyteRowIsItsCommands i f s hw hf hpost
  exact nomatch hnext.symm.trans h

/-- An instruction has a next state, or it is `begin` or a row, refused in `Fetching` (R114, R290, R312). -/
theorem exec_next_or_refused (i : Instr) (s : State) :
    (∃ t, exec i s = .next t) ∨
    (s.session.state = .fetching ∧ exec i s = .refused .beginWhileFetching ∧
      ((∃ a b, i = .cmdBegin a b) ∨ ∃ f, instrForm i = some f)) := by
  obtain ⟨text, f, hf, hi⟩ | ⟨f, _, hi⟩ | ⟨c, rfl, hi⟩ := exec_cases i s <;> rw [hi]
  · exact (runRow_next_or_refused text f s).imp_right fun ⟨hs, hrefused⟩ => ⟨hs, hrefused, .inr ⟨f, hf⟩⟩
  · obtain ⟨_, hnext⟩ := feedPostbyte_next f s
    exact .inl ⟨_, hnext⟩
  · refine (runCommand_next_or_refused c s).imp_right ?_
    rintro ⟨hs, hrefused, a, b, rfl⟩
    exact ⟨hs, hrefused, .inl ⟨a, b, rfl⟩⟩

/-- Settles O10. -/
theorem everyInstructionIsTotal : Obligations.EveryInstructionIsTotal := by
  intro i s
  obtain ⟨t, hnext⟩ | ⟨hs, hrefused, hi⟩ := exec_next_or_refused i s
  · exact .inl ⟨t, hnext, (exec_advances hnext).sameBlock⟩
  · refine .inr ⟨hs, hrefused, hi.imp_right ?_⟩
    rintro ⟨f, hf⟩
    exact ⟨f, hf, fun hw => isPostbyte_of_exec_refused hw hf hrefused⟩

end Sys2Proof.Machine
end

