-- ==== Sys2Proof/Proofs/Sessions.lean ====
section
/-! SUPPORT. Several sessions of one decoder instance: a command writes the session at its place and no other (R309). -/

namespace Sys2Proof.Machine

/-- A command on a bank finds no session at its place and changes nothing, or writes there what it does to that session
alone. -/
theorem Bank.command_cases {bank bank' : Bank} {k : Nat} {c : Command} {r : Reply}
    (h : bank.command k c = .next (bank', r)) :
    (bank.sessions[k]? = none ∧ bank' = bank) ∨
    ∃ x s, bank.sessions[k]? = some x ∧ runCommand c (bank.solo x) = .next s ∧
      bank' = { bank with sessions := bank.sessions.set k s.session } ∧ r = s.reply := by
  unfold Bank.command at h
  cases hk : bank.sessions[k]? with
  | none =>
    rw [hk] at h
    cases h
    exact .inl ⟨rfl, rfl⟩
  | some x =>
    simp only [hk] at h
    cases hc : runCommand c (bank.solo x) with
    | next s =>
      rw [hc] at h
      cases h
      exact .inr ⟨x, s, rfl, hc, rfl, rfl⟩
    | fault e => exact nomatch e
    | refused e =>
      rw [hc] at h
      cases h

/-- Settles O21: a command writes by `List.set` at its own place, which no other place reads. -/
theorem sessionsDoNotInterfere : Obligations.SessionsDoNotInterfere := by
  refine fun bank => ⟨rfl, fun bank' k c r h => ?_⟩
  obtain ⟨hk, rfl⟩ | ⟨x, s, hk, hc, rfl, rfl⟩ := Bank.command_cases h
  · exact ⟨rfl, rfl, fun _ _ => rfl, fun y hy => nomatch hk.symm.trans hy⟩
  · refine ⟨rfl, rfl, fun j hj => List.getElem?_set_ne hj.symm, fun y hy => ?_⟩
    obtain rfl : x = y := Option.some.inj (hk.symm.trans hy)
    obtain ⟨hlt, _⟩ := List.getElem?_eq_some_iff.mp hk
    exact ⟨s, hc, List.getElem?_set_self hlt, rfl⟩

end Sys2Proof.Machine
end
